-- ==== Sys2Proof/Word.lean ====
section
/-! DEFINITION. The bit vectors of the machine and the bit slices of an instruction word.
Widths are those of spec/00_scope.md R6; the slices are those of R8. -/

namespace Sys2Proof

/-- An 8-bit value: a general register, a timer, a byte of memory (R6, R20, R29). -/
abbrev Byte := BitVec 8

/-- A 16-bit value: an instruction word, the pc, the index register, a stack entry (R6, R8, R22, R24, R26). -/
abbrev Word := BitVec 16

/-- A 4-bit nibble field of an instruction word (R8). -/
abbrev Nibble := BitVec 4

/-- The number of a general register V[0] to V[15], or of a key: a 4-bit index, so it is never out of range
(R20, R30). -/
abbrev Reg := Fin 16

end Sys2Proof
end

