-- ==== Sys2Proof/Syntax.lean ====
section
/-! DEFINITION. The 35 instructions, one constructor per row of spec/opcode_table.json, in the table's order
(spec/30_encoding.md R75), and each one's name in the table. -/

namespace Sys2Proof

/-- An instruction. Operands are the fields of R71 and R73: `x`, `y` register numbers, `nn` an 8-bit immediate,
`nnn` a 12-bit address, `n` the height of a sprite. The height is a count, written as a natural number; an encoding
holds 0 to 15 of it (see `Instr.wellFormed`). SHR and SHL keep the Y field that they ignore (R76), so that no bit of
their word is lost. -/
inductive Instr where
  /-- 0000 (R94) -/
  | nop
  /-- 00E0 (R150) -/
  | cls
  /-- 00EE (R100) -/
  | ret
  /-- 1NNN (R101) -/
  | jp (nnn : BitVec 12)
  /-- 2NNN (R102) -/
  | call (nnn : BitVec 12)
  /-- 3XNN (R104) -/
  | seImm (x : Reg) (nn : Byte)
  /-- 4XNN (R105) -/
  | sneImm (x : Reg) (nn : Byte)
  /-- 5XY0 (R106) -/
  | seReg (x y : Reg)
  /-- 6XNN (R120) -/
  | ldImm (x : Reg) (nn : Byte)
  /-- 7XNN (R121) -/
  | addImm (x : Reg) (nn : Byte)
  /-- 8XY0 (R122) -/
  | ldReg (x y : Reg)
  /-- 8XY1 (R123) -/
  | or (x y : Reg)
  /-- 8XY2 (R124) -/
  | and (x y : Reg)
  /-- 8XY3 (R125) -/
  | xor (x y : Reg)
  /-- 8XY4 (R126) -/
  | addReg (x y : Reg)
  /-- 8XY5 (R127) -/
  | sub (x y : Reg)
  /-- 8XY6 (R128); Y is ignored (R76) -/
  | shr (x y : Reg)
  /-- 8XY7 (R129) -/
  | subn (x y : Reg)
  /-- 8XYE (R130); Y is ignored (R76) -/
  | shl (x y : Reg)
  /-- 9XY0 (R107) -/
  | sneReg (x y : Reg)
  /-- ANNN (R140) -/
  | ldI (nnn : BitVec 12)
  /-- BNNN (R103) -/
  | jpV0 (nnn : BitVec 12)
  /-- CXNN (R132) -/
  | rnd (x : Reg) (nn : Byte)
  /-- DXYN (R151) -/
  | drw (x y : Reg) (n : Nat)
  /-- EX9E (R160) -/
  | skp (x : Reg)
  /-- EXA1 (R161) -/
  | sknp (x : Reg)
  /-- FX07 (R162) -/
  | ldVxDt (x : Reg)
  /-- FX0A (R163) -/
  | ldVxK (x : Reg)
  /-- FX15 (R164) -/
  | ldDtVx (x : Reg)
  /-- FX18 (R165) -/
  | ldStVx (x : Reg)
  /-- FX1E (R141) -/
  | addI (x : Reg)
  /-- FX29 (R142) -/
  | ldF (x : Reg)
  /-- FX33 (R143) -/
  | ldB (x : Reg)
  /-- FX55 (R144) -/
  | stRegs (x : Reg)
  /-- FX65 (R145) -/
  | ldRegs (x : Reg)
deriving DecidableEq, Repr

/-- The instruction's name in the opcode table (R75, first column). -/
def Instr.mnemonic : Instr → String
  | .nop => "NOP"
  | .cls => "CLS"
  | .ret => "RET"
  | .jp _ => "JP"
  | .call _ => "CALL"
  | .seImm _ _ => "SE_IMM"
  | .sneImm _ _ => "SNE_IMM"
  | .seReg _ _ => "SE_REG"
  | .ldImm _ _ => "LD_IMM"
  | .addImm _ _ => "ADD_IMM"
  | .ldReg _ _ => "LD_REG"
  | .or _ _ => "OR"
  | .and _ _ => "AND"
  | .xor _ _ => "XOR"
  | .addReg _ _ => "ADD_REG"
  | .sub _ _ => "SUB"
  | .shr _ _ => "SHR"
  | .subn _ _ => "SUBN"
  | .shl _ _ => "SHL"
  | .sneReg _ _ => "SNE_REG"
  | .ldI _ => "LD_I"
  | .jpV0 _ => "JP_V0"
  | .rnd _ _ => "RND"
  | .drw _ _ _ => "DRW"
  | .skp _ => "SKP"
  | .sknp _ => "SKNP"
  | .ldVxDt _ => "LD_VX_DT"
  | .ldVxK _ => "LD_VX_K"
  | .ldDtVx _ => "LD_DT_VX"
  | .ldStVx _ => "LD_ST_VX"
  | .addI _ => "ADD_I"
  | .ldF _ => "LD_F"
  | .ldB _ => "LD_B"
  | .stRegs _ => "ST_REGS"
  | .ldRegs _ => "LD_REGS"

end Sys2Proof
end

