-- ==== Sys2Proof/WellFormed.lean ====
section
/-! DEFINITION. Which terms of `Instr` are instructions of the machine: those whose operands fit their fields
(spec/30_encoding.md R73). Register numbers and immediates fit by their types; the height of a sprite is a number
and is checked. -/

namespace Sys2Proof

/-- "N is an unsigned 4-bit value 0 to 15, used only as the sprite height" (R73). Height 0 is legal (R151, D11). -/
def heightFits (n : Nat) : Bool := decide (n ≤ 15)

/-- Every operand fits the field that R71 and R72 give it. -/
def Instr.wellFormed : Instr → Bool
  | .nop => true
  | .cls => true
  | .ret => true
  | .jp _ => true
  | .call _ => true
  | .seImm _ _ => true
  | .sneImm _ _ => true
  | .seReg _ _ => true
  | .ldImm _ _ => true
  | .addImm _ _ => true
  | .ldReg _ _ => true
  | .or _ _ => true
  | .and _ _ => true
  | .xor _ _ => true
  | .addReg _ _ => true
  | .sub _ _ => true
  | .shr _ _ => true
  | .subn _ _ => true
  | .shl _ _ => true
  | .sneReg _ _ => true
  | .ldI _ => true
  | .jpV0 _ => true
  | .rnd _ _ => true
  | .drw _ _ n => heightFits n
  | .skp _ => true
  | .sknp _ => true
  | .ldVxDt _ => true
  | .ldVxK _ => true
  | .ldDtVx _ => true
  | .ldStVx _ => true
  | .addI _ => true
  | .ldF _ => true
  | .ldB _ => true
  | .stRegs _ => true
  | .ldRegs _ => true

end Sys2Proof
end

