-- ==== Sys2Proof/Decode.lean ====
section
/-! DEFINITION. The decoder, total on every word and on every byte string, and after it the encoder, both written
from the patterns of spec/30_encoding.md R71, R72, R74, R75. -/

namespace Sys2Proof

/-! ### Fields of an instruction word (R8, R71) -/

/-- d1 = w[15:12], the major opcode. -/
def fieldD1 (w : Word) : Nibble := w.extractLsb' 12 4

/-- X = d2 = w[11:8], a register number. -/
def fieldX (w : Word) : Reg := (w.extractLsb' 8 4 : Nibble).toFin

/-- Y = d3 = w[7:4], a register number. -/
def fieldY (w : Word) : Reg := (w.extractLsb' 4 4 : Nibble).toFin

/-- N = d4 = w[3:0]. -/
def fieldN (w : Word) : Nibble := w.extractLsb' 0 4

/-- NN = w[7:0]. -/
def fieldNN (w : Word) : Byte := w.extractLsb' 0 8

/-- NNN = w[11:0]. -/
def fieldNNN (w : Word) : BitVec 12 := w.extractLsb' 0 12

/-! ### The decoder (R74) -/

/-- d1 = 0: three fixed words, every other one unsupported (R74, R79). -/
def decode0 (w : Word) : Option Instr :=
  if w = 0x0000#16 then some .nop
  else if w = 0x00E0#16 then some .cls
  else if w = 0x00EE#16 then some .ret
  else none

/-- d1 = 8: the register-register group, selected by N (R74). -/
def decode8 (w : Word) : Option Instr :=
  match fieldN w with
  | 0x0#4 => some (.ldReg (fieldX w) (fieldY w))
  | 0x1#4 => some (.or (fieldX w) (fieldY w))
  | 0x2#4 => some (.and (fieldX w) (fieldY w))
  | 0x3#4 => some (.xor (fieldX w) (fieldY w))
  | 0x4#4 => some (.addReg (fieldX w) (fieldY w))
  | 0x5#4 => some (.sub (fieldX w) (fieldY w))
  | 0x6#4 => some (.shr (fieldX w) (fieldY w))
  | 0x7#4 => some (.subn (fieldX w) (fieldY w))
  | 0xE#4 => some (.shl (fieldX w) (fieldY w))
  | _ => none

/-- d1 = E: the two key skips, selected by NN (R74). -/
def decodeE (w : Word) : Option Instr :=
  match fieldNN w with
  | 0x9E#8 => some (.skp (fieldX w))
  | 0xA1#8 => some (.sknp (fieldX w))
  | _ => none

/-- d1 = F: selected by NN (R74). -/
def decodeF (w : Word) : Option Instr :=
  match fieldNN w with
  | 0x07#8 => some (.ldVxDt (fieldX w))
  | 0x0A#8 => some (.ldVxK (fieldX w))
  | 0x15#8 => some (.ldDtVx (fieldX w))
  | 0x18#8 => some (.ldStVx (fieldX w))
  | 0x1E#8 => some (.addI (fieldX w))
  | 0x29#8 => some (.ldF (fieldX w))
  | 0x33#8 => some (.ldB (fieldX w))
  | 0x55#8 => some (.stRegs (fieldX w))
  | 0x65#8 => some (.ldRegs (fieldX w))
  | _ => none

/-- Decode(w) of R74: "a total function from 16-bit words to the 35 instructions plus unsupported" (`none`). -/
def decodeWord (w : Word) : Option Instr :=
  match fieldD1 w with
  | 0x0#4 => decode0 w
  | 0x1#4 => some (.jp (fieldNNN w))
  | 0x2#4 => some (.call (fieldNNN w))
  | 0x3#4 => some (.seImm (fieldX w) (fieldNN w))
  | 0x4#4 => some (.sneImm (fieldX w) (fieldNN w))
  | 0x5#4 => if fieldN w = 0 then some (.seReg (fieldX w) (fieldY w)) else none
  | 0x6#4 => some (.ldImm (fieldX w) (fieldNN w))
  | 0x7#4 => some (.addImm (fieldX w) (fieldNN w))
  | 0x8#4 => decode8 w
  | 0x9#4 => if fieldN w = 0 then some (.sneReg (fieldX w) (fieldY w)) else none
  | 0xA#4 => some (.ldI (fieldNNN w))
  | 0xB#4 => some (.jpV0 (fieldNNN w))
  | 0xC#4 => some (.rnd (fieldX w) (fieldNN w))
  | 0xD#4 => some (.drw (fieldX w) (fieldY w) (fieldN w).toNat)
  | 0xE#4 => decodeE w
  | _ => decodeF w

/-- Two bytes in memory order make a word: "big-endian", the byte at the lower address the high one (R51). -/
def wordOfBytes (hi lo : Byte) : Word := hi ++ lo

/-- Why a byte string is not an instruction. -/
inductive DecodeError where
  /-- Fewer than two bytes: every instruction is exactly two (R70). -/
  | tooShort
  /-- The word matches no row of the opcode table (R79): "identifying the raw 16-bit word". -/
  | unsupportedInstruction (w : Word)
deriving DecidableEq, Repr

/-- What the decoder reads from a byte string: an instruction and the bytes after it, or a rejection by name. -/
inductive Decoded where
  /-- an instruction and the bytes that follow it -/
  | instr (i : Instr) (rest : List Byte)
  /-- a rejection by name -/
  | rejected (e : DecodeError)
deriving DecidableEq, Repr

/-- The decoder on bytes, total: one instruction is "two consecutive bytes in memory, high byte first" (R70). -/
def decodeBytes : List Byte → Decoded
  | hi :: lo :: rest =>
    match decodeWord (wordOfBytes hi lo) with
    | some i => .instr i rest
    | none => .rejected (.unsupportedInstruction (wordOfBytes hi lo))
  | _ => .rejected .tooShort

/-! ### The encoder: the six formats of R72 -/

/-- A register number as a nibble of the word. -/
def regNibble (x : Reg) : Nibble := BitVec.ofFin x

/-- Format NNN: opcode, NNN. -/
def wordNNN (op : Nibble) (nnn : BitVec 12) : Word := op ++ nnn

/-- Format XNN: opcode, X, NN. -/
def wordXNN (op : Nibble) (x : Reg) (nn : Byte) : Word := op ++ regNibble x ++ nn

/-- Formats XY and XYN: opcode, X, Y, sub-opcode or N. -/
def wordXYN (op : Nibble) (x y : Reg) (n : Nibble) : Word := op ++ regNibble x ++ regNibble y ++ n

/-- The word of a well-formed instruction (R75). Format FIX is written out; format X is XNN with NN fixed. -/
def encode : Instr → Word
  | .nop => 0x0000#16
  | .cls => 0x00E0#16
  | .ret => 0x00EE#16
  | .jp nnn => wordNNN 0x1 nnn
  | .call nnn => wordNNN 0x2 nnn
  | .seImm x nn => wordXNN 0x3 x nn
  | .sneImm x nn => wordXNN 0x4 x nn
  | .seReg x y => wordXYN 0x5 x y 0x0
  | .ldImm x nn => wordXNN 0x6 x nn
  | .addImm x nn => wordXNN 0x7 x nn
  | .ldReg x y => wordXYN 0x8 x y 0x0
  | .or x y => wordXYN 0x8 x y 0x1
  | .and x y => wordXYN 0x8 x y 0x2
  | .xor x y => wordXYN 0x8 x y 0x3
  | .addReg x y => wordXYN 0x8 x y 0x4
  | .sub x y => wordXYN 0x8 x y 0x5
  | .shr x y => wordXYN 0x8 x y 0x6
  | .subn x y => wordXYN 0x8 x y 0x7
  | .shl x y => wordXYN 0x8 x y 0xE
  | .sneReg x y => wordXYN 0x9 x y 0x0
  | .ldI nnn => wordNNN 0xA nnn
  | .jpV0 nnn => wordNNN 0xB nnn
  | .rnd x nn => wordXNN 0xC x nn
  | .drw x y n => wordXYN 0xD x y (BitVec.ofNat 4 n)
  | .skp x => wordXNN 0xE x 0x9E
  | .sknp x => wordXNN 0xE x 0xA1
  | .ldVxDt x => wordXNN 0xF x 0x07
  | .ldVxK x => wordXNN 0xF x 0x0A
  | .ldDtVx x => wordXNN 0xF x 0x15
  | .ldStVx x => wordXNN 0xF x 0x18
  | .addI x => wordXNN 0xF x 0x1E
  | .ldF x => wordXNN 0xF x 0x29
  | .ldB x => wordXNN 0xF x 0x33
  | .stRegs x => wordXNN 0xF x 0x55
  | .ldRegs x => wordXNN 0xF x 0x65

/-- The high byte of a word, which memory holds at the lower address (R51). -/
def highByte (w : Word) : Byte := w.extractLsb' 8 8

/-- The low byte of a word, which memory holds at the higher address (R51). -/
def lowByte (w : Word) : Byte := w.extractLsb' 0 8

/-- A word as the bytes memory holds, lowest address first (R51, R70). -/
def bytesOfWord (w : Word) : List Byte := [highByte w, lowByte w]

/-- The bytes of a well-formed instruction. -/
def encodeBytes (i : Instr) : List Byte := bytesOfWord (encode i)

/-! ### The host's reading of the opcode table -/

/-- The first instruction word of a table word of `nbits` bits: bit 0 is its least significant bit, and every bit
from `nbits` up is 0. -/
def tableWord (nbits w : Nat) : Word := BitVec.ofNat 16 (w % 2 ^ nbits)

/-- The instruction the decoder reads from the bytes of a table word, laid out high byte first. -/
def decodeTableWord (nbits w : Nat) : Option Instr :=
  match decodeBytes (bytesOfWord (tableWord nbits w)) with
  | .instr i _ => some i
  | .rejected _ => none

end Sys2Proof
end

