-- ==== Sys2Proof/Config.lean ====
section
/-! DEFINITION. The sizes the spec fixes (spec/00_scope.md R6) and the one value it leaves free at every
execution, the random byte (R7, R189, decision D17 OPEN). The other open parameter, the font table, is data of the
machine's state (`State.font`, log entry 2). -/

namespace Sys2Proof.Config

/-- MEM_SIZE: bytes of memory, addresses 0 to 4095 (R6, R29, R50). -/
def memSize : Nat := 4096

/-- START: where the program image begins and the reset value of pc (R6, R35). -/
def start : Nat := 512

/-- FONT_SIZE: the font table occupies addresses 0 to 79 (R6, R29). -/
def fontSize : Nat := 80

/-- GLYPH_BYTES: bytes of one glyph (R6). -/
def glyphBytes : Nat := 5

/-- MAX_IMAGE: the largest program image LOAD accepts (R6, R202). -/
def maxImage : Nat := 3584

/-- STACK_DEPTH: entries of the call stack (R6, R25, R26). -/
def stackDepth : Nat := 16

/-- DESIGN CHOICE (log entry 3): the byte `rand()` gives RND. The spec: "one 8-bit input sampled once by each
execution of RND"; "The model treats each sample as an unconstrained draw" (R189, U1). A constant with no body, so
nothing can be proved of its values; it is applied to the number of draws made so far, so that every execution of
RND has a draw of its own. -/
opaque randomByte : Nat → Byte

end Sys2Proof.Config
end

