-- ==== Sys2Proof/Machine/Font.lean ====
section
/-! DEFINITION. The font table: 16 glyphs of 5 bytes (spec/10_state.md R29). The spec makes it a parameter of the
model and gives it a default; this file holds the parameter's type and that default. -/

namespace Sys2Proof.Machine

/-- FONT[0..79], the table RESET copies into memory from address 0 (R29, R35): a parameter, decision D2 OPEN. -/
abbrev Font := Vector Byte 80

/-- Glyphs 0 to 7 of R29's default table, five bytes each, top row first. -/
def glyphs0to7 : List Byte :=
  [0xF0, 0x90, 0x90, 0x90, 0xF0] ++ [0x20, 0x60, 0x20, 0x20, 0x70] ++
  [0xF0, 0x10, 0xF0, 0x80, 0xF0] ++ [0xF0, 0x10, 0xF0, 0x10, 0xF0] ++
  [0x90, 0x90, 0xF0, 0x10, 0x10] ++ [0xF0, 0x80, 0xF0, 0x10, 0xF0] ++
  [0xF0, 0x80, 0xF0, 0x90, 0xF0] ++ [0xF0, 0x10, 0x20, 0x40, 0x40]

/-- Glyphs 8 to F of R29's default table. -/
def glyphs8toF : List Byte :=
  [0xF0, 0x90, 0xF0, 0x90, 0xF0] ++ [0xF0, 0x90, 0xF0, 0x10, 0xF0] ++
  [0xF0, 0x90, 0xF0, 0x90, 0x90] ++ [0xE0, 0x90, 0xE0, 0x90, 0xE0] ++
  [0xF0, 0x80, 0x80, 0x80, 0xF0] ++ [0xE0, 0x90, 0x90, 0x90, 0xE0] ++
  [0xF0, 0x80, 0xF0, 0x80, 0xF0] ++ [0xF0, 0x80, 0xF0, 0x80, 0x80]

/-- PRESUMED (log entry 2): R29's default table, which the spec marks "from general knowledge, not in source" (G1).
No statement about the machine rests on it: each holds for every font. -/
def defaultFont : Font := ⟨(glyphs0to7 ++ glyphs8toF).toArray, rfl⟩

end Sys2Proof.Machine
end

