-- ==== Sys2Proof/Machine/State.lean ====
section
/-! DEFINITION. The state of the machine as plain data (spec/10_state.md), its value after reset (R35), the faults a
step can latch (spec/60_exceptions.md R170, R171) and the host's events (R36). -/

namespace Sys2Proof.Machine

/-- The five step faults of R170, each with the datum it records. A step that raises one sets the fault latch of
`State` and is then a next state (R172); the machine never answers `Host.Outcome.fault`. Safe or unsafe: see log
entry 1. -/
inductive Fault where
  /-- Cause 1, raised by decode in any step: the fetched word matches no pattern (R79, R92). Records "the raw 16-bit
  word". Unsafe only for a claim about the contents of a halted machine (log entry 1). -/
  | unsupportedInstruction (w : Word)
  /-- Cause 2, raised by the fetch of any step and by DRW, LD_B, ST_REGS and LD_REGS: an address above 4095 would be
  read or written (R55, R56, R91). Records the lowest out-of-range address, an unbounded natural (D4). Unsafe as
  above. -/
  | memoryBounds (a : Nat)
  /-- Cause 3, raised by CALL when sp = 16 (R102). Unsafe as above. -/
  | stackOverflow
  /-- Cause 4, raised by RET when sp = 0 (R100). Unsafe as above. -/
  | stackUnderflow
  /-- Cause 5, raised by SKP and SKNP when V[X] = k > 15 (R160, R161, D8). Unsafe as above. -/
  | keypadIndex (k : Byte)
deriving DecidableEq, Repr

/-- The reasons a step can be refused. Every instruction of the table has its meaning, so the machine answers none of
them. -/
inductive Refusal where
  /-- Raised by an arm of `exec` whose instruction has no meaning yet. No arm raises it. Safe. -/
  | notModelled (mnemonic : String)
deriving DecidableEq, Repr

/-- What the fault latch holds, `Some(cause, info, pc0, word)` of R32 and R171; the cause carries its info. -/
structure FaultRecord where
  /-- the cause and its datum -/
  cause : Fault
  /-- the address of the faulting instruction -/
  pc0 : Word
  /-- its instruction word; 0 if the fetch itself faulted -/
  word : Word
deriving DecidableEq, Repr

/-- The host's atomic events, one per procedure of the interface (R11, R36). -/
inductive Event where
  /-- `construct()` (R200) -/
  | reset
  /-- `load(bytes)` (R202) -/
  | load (data : List Byte)
  /-- `step()` (R90) -/
  | step
  /-- `tick_timers()` (R185) -/
  | tick
  /-- `set_key(index, pressed)` (R187) -/
  | key (k : Reg) (pressed : Bool)
  /-- `display()` (R188) -/
  | display
deriving DecidableEq, Repr

/-- A cell of the framebuffer: column `x`, row `y` (R31). -/
structure Pixel where
  /-- column 0 to 63 -/
  x : Fin 64
  /-- row 0 to 31 -/
  y : Fin 32
deriving DecidableEq, Repr

/-- The framebuffer: 64 × 32 booleans, cell (x, y) at linear index y*64 + x (R31). -/
abbrev Framebuffer := Vector Bool 2048

/-- Memory as (address, byte) pairs in one canonical form (`Memory.wf` in Machine/Ops.lean). An address that is not
listed holds what RESET put there: the font at 0 to 79, zero above (R29, R35). -/
abbrev Memory := List Host.Cell

/-- Every piece of state of spec/10_state.md, and three fields that are the MODEL's own (`font`, `draws`,
`schedule`: parameters and inputs of the step, R38). -/
structure State where
  /-- pc: between steps, the address of the next instruction to fetch (R22) -/
  pc : Word
  /-- V[0] to V[15]; V[15] is VF, the flag register (R20, R21) -/
  v : Vector Byte 16
  /-- I, the index register (R24) -/
  i : Word
  /-- sp, the number of live stack entries, 0 to 16 (R25, D5, D6) -/
  sp : Fin 17
  /-- S[0] to S[15], the call stack, outside memory (R26) -/
  stack : Vector Word 16
  /-- DT, the delay timer (R27) -/
  dt : Byte
  /-- ST, the sound timer (R28) -/
  st : Byte
  /-- K[0] to K[15], true while pressed (R30) -/
  keys : Vector Bool 16
  /-- FB, the framebuffer, outside memory (R31) -/
  fb : Framebuffer
  /-- M[0] to M[4095] (R29) -/
  mem : Memory
  /-- the fault latch; the core is halted while it is set (R32, R95, R173) -/
  fault : Option FaultRecord
  /-- MODEL's own: the FONT parameter (R7, R29, R38); no instruction and no event writes it (log entry 2) -/
  font : Font
  /-- MODEL's own: how many random bytes have been drawn (R189; log entry 3) -/
  draws : Nat
  /-- MODEL's own: the events the host issues next, soonest first; after them it issues STEPs for ever (R38, R190;
  log entry 4) -/
  schedule : List Event
deriving DecidableEq, Repr

/-- The machine right after RESET (R35): "Nothing is left unspecified at reset". Memory lists nothing, so every byte
holds its reset contents. The model's own fields: the default font (log entry 2), no random byte drawn yet (log entry
3), a host that only issues STEPs (log entry 4). -/
def State.reset : State where
  pc := BitVec.ofNat 16 Config.start
  v := Vector.replicate 16 0
  i := 0
  sp := 0
  stack := Vector.replicate 16 0
  dt := 0
  st := 0
  keys := Vector.replicate 16 false
  fb := Vector.replicate 2048 false
  mem := []
  fault := none
  font := defaultFont
  draws := 0
  schedule := []

end Sys2Proof.Machine
end

