-- ==== Sys2Proof/Machine/Ops.lean ====
section
/-! DEFINITION. The named operations over memory, registers, stack and framebuffer, the fetch, taking a fault, and
the only way out of one (RESET). Every instruction's meaning is written over these. -/

namespace Sys2Proof.Machine

/-! ### Memory (spec/20_memory.md) -/

/-- What an address that memory does not list reads as: its contents after RESET (R29, R35, R57). -/
def Memory.unlisted (font : Font) (a : Nat) : Byte :=
  if h : a < 80 then font[a] else 0

/-- The byte at an address (R55). The caller has checked that the address exists. -/
def Memory.read (font : Font) : Memory → Nat → Byte
  | [], a => Memory.unlisted font a
  | (b, u) :: rest, a => if a = b then u else Memory.read font rest a

/-- The memory without any cell at an address. -/
def Memory.erase (m : Memory) (a : Nat) : Memory := m.filter fun c => c.1 != a

/-- A cell put in its place by address. -/
def Memory.insert (a : Nat) (u : Byte) : Memory → Memory
  | [] => [(a, u)]
  | (b, w) :: rest => if a < b then (a, u) :: (b, w) :: rest else (b, w) :: Memory.insert a u rest

/-- A byte stored at an address (R56); the caller has checked that the address exists. Storing what the address
holds when unlisted removes its cell, so equal memories are equal lists. -/
def Memory.write (font : Font) (m : Memory) (a : Nat) (u : Byte) : Memory :=
  if u = Memory.unlisted font a then Memory.erase m a else Memory.insert a u (Memory.erase m a)

/-- The canonical form: addresses strictly rising, every address one of the 4096 that exist (R50), no cell equal to
what its address reads as when unlisted. -/
abbrev Memory.wf (font : Font) (m : Memory) : Prop :=
  m.Pairwise (fun c d => c.1 < d.1) ∧ ∀ c ∈ m, c.1 < 4096 ∧ c.2 ≠ Memory.unlisted font c.1

/-- M[a]. -/
def State.byteAt (s : State) (a : Nat) : Byte := Memory.read s.font s.mem a

/-- M[a] <- u. -/
def State.setByte (s : State) (a : Nat) (u : Byte) : State :=
  { s with mem := Memory.write s.font s.mem a u }

/-- The bytes stored one after another from an address upward, in ascending order (R52, R143, R144, R202). -/
def State.storeBytes (s : State) (a : Nat) : List Byte → State
  | [] => s
  | u :: rest => (s.setByte a u).storeBytes (a + 1) rest

/-- The `n` bytes from an address upward (R52, R145, R151). -/
def State.loadBytes (s : State) (a n : Nat) : List Byte :=
  (List.range n).map fun k => s.byteAt (a + k)

/-! ### Registers (R20 to R28) -/

/-- V[x]. -/
def State.reg (s : State) (x : Reg) : Byte := s.v[x]

/-- V[x] <- u. No register is hardwired (R20). -/
def State.setReg (s : State) (x : Reg) (u : Byte) : State := { s with v := s.v.set x.val u x.isLt }

/-- V[k] <- first byte, V[k+1] <- second byte, and so on (R145). -/
def State.setRegs (s : State) (k : Nat) : List Byte → State
  | [] => s
  | u :: rest => (s.setReg (Fin.ofNat 16 k) u).setRegs (k + 1) rest

/-- I <- w. -/
def State.setI (s : State) (w : Word) : State := { s with i := w }

/-- pc <- w. -/
def State.setPc (s : State) (w : Word) : State := { s with pc := w }

/-- The fetch's "advances pc by 2 (unconditionally ...)" (R91): pc is now the next sequential instruction's. -/
def State.advance (s : State) : State := s.setPc (s.pc + 2)

/-- The advance, and a further `pc <- pc + 2` if the condition holds (R108). -/
def State.skipIf (s : State) (c : Bool) : State := if c then s.advance.advance else s.advance

/-- DT <- u. -/
def State.setDt (s : State) (u : Byte) : State := { s with dt := u }

/-- ST <- u. -/
def State.setSt (s : State) (u : Byte) : State := { s with st := u }

/-! ### Call stack (R25, R26) -/

/-- `S[sp] <- w; sp <- sp + 1` (R102). With the stack full there is no S[16] and nothing happens; CALL has checked
that (R102). -/
def State.push (s : State) (w : Word) : State :=
  if h : s.sp.val < 16 then { s with stack := s.stack.set s.sp.val w h, sp := ⟨s.sp.val + 1, by omega⟩ } else s

/-- `sp <- sp - 1`, and the entry S[sp] read with the new sp; the entry is not cleared (R100). RET has checked that
the stack is not empty. -/
def State.pop (s : State) : Word × State :=
  (s.stack[s.sp.val - 1]'(by omega), { s with sp := ⟨s.sp.val - 1, by omega⟩ })

/-! ### Framebuffer (R31) -/

/-- "stored at linear index y*64 + x" (R31). -/
def Pixel.index (p : Pixel) : Fin 2048 := ⟨p.y.val * 64 + p.x.val, by omega⟩

/-- FB[x, y]. -/
def Framebuffer.get (f : Framebuffer) (p : Pixel) : Bool := f[p.index]

/-- `FB[x, y] <- not FB[x, y]` (R151). -/
def Framebuffer.flip (f : Framebuffer) (p : Pixel) : Framebuffer :=
  f.set p.index.val (!Framebuffer.get f p) p.index.isLt

/-- All 2048 cells false (R35, R150). -/
def Framebuffer.clear : Framebuffer := Vector.replicate 2048 false

/-- One set bit of a sprite: the collision flag is raised if the cell is true, and the cell is toggled (R151). -/
def drawPixel (d : Framebuffer × Bool) (p : Pixel) : Framebuffer × Bool :=
  (Framebuffer.flip d.1 p, d.2 || Framebuffer.get d.1 p)

/-- The cells a sprite's set bits name, toggled one after another: the framebuffer after, and whether any of them was
true when it was toggled (R151). -/
def drawPixels (f : Framebuffer) (ps : List Pixel) : Framebuffer × Bool := ps.foldl drawPixel (f, false)

/-! ### Fetch (spec/40_step_cycle.md R91) -/

/-- Whether both bytes of the fetch lie in memory: "if `pc0 + 1 > 4095` the fetch is a bounds violation" (R91). -/
def State.fetchable (s : State) : Bool := decide (s.pc.toNat ≤ 4094)

/-- The instruction word at pc: `M[pc0] ++ M[pc0+1]`, big-endian, pc0 odd or even (R51, R53, R91). -/
def State.fetchWord (s : State) : Word := wordOfBytes (s.byteAt s.pc.toNat) (s.byteAt (s.pc.toNat + 1))

/-! ### Taking a fault, and leaving the halted state (spec/60_exceptions.md) -/

/-- `raise`: "changes nothing but the fault latch: pc stays pc0" (R172); the latch records the cause, the address of
the faulting instruction and its word (R171). -/
def State.takeFault (s : State) (cause : Fault) (word : Word) : State :=
  { s with fault := some { cause := cause, pc0 := s.pc, word := word } }

/-- The RESET event, the only way out of the halted state (R173, R176, R200): every piece of the machine's state to
its value in R35. The model's own fields are no state of the machine and stay: the font is fixed, the random bytes
drawn are spent, the host goes on with its schedule (log entry 5). -/
def State.resetCore (s : State) : State :=
  { State.reset with font := s.font, draws := s.draws, schedule := s.schedule }

end Sys2Proof.Machine
end

