-- ==== Sys2Proof/Machine/Flags.lean ====
section
/-! DEFINITION. The values written to VF, the machine's one flag (spec/10_state.md R21), and the order in which a
flag-writing instruction writes (spec/42_register_alu.md R131, R133). -/

namespace Sys2Proof.Machine

/-- FLAG_REG: V[15] (R6, R21). -/
def flagReg : Reg := 15

/-- A flag in a register: "true is 1 and false is 0" (R9, R21). -/
def flagByte (c : Bool) : Byte := if c then 1 else 0

/-- "carry `a + b > 255`" (R133). -/
def carryOut (a b : Byte) : Bool := decide (a.toNat + b.toNat > 255)

/-- The inverted borrow of `a - b`: 1 iff a ≥ b, "including a = b" (R133). -/
def noBorrow (a b : Byte) : Bool := decide (b.toNat ≤ a.toNat)

/-- The bit a right shift moves out, bit 0 of the old value (R128). -/
def shiftedOutRight (a : Byte) : Bool := a.getLsbD 0

/-- The bit a left shift moves out, bit 7 of the old value (R130). -/
def shiftedOutLeft (a : Byte) : Bool := a.getLsbD 7

/-- VF <- flag. -/
def State.setFlag (s : State) (c : Bool) : State := s.setReg flagReg (flagByte c)

/-- "V[X] is written with the result; then V[15] is written with the flag, last" (R131, D7): with X = 15 the flag
stands. -/
def State.setResultFlag (s : State) (x : Reg) (result : Byte) (flag : Bool) : State :=
  (s.setReg x result).setFlag flag

end Sys2Proof.Machine
end

