-- ==== Sys2Proof/Machine/Operands.lean ====
section
/-! DEFINITION. The operand forms: the one addressing mode `I + i` with its bounds check, the register block, decimal
digits, glyph addresses, the key scan and the cells of a sprite. -/

namespace Sys2Proof.Machine

/-- The effective address `I + k`, an unbounded natural, never reduced (R55, D4). -/
def State.effAddr (s : State) (k : Nat) : Nat := s.i.toNat + k

/-- All of `I` to `I + last` exist: "the whole check is `I + last ≤ 4095`" (R56). -/
def State.inBounds (s : State) (last : Nat) : Bool := decide (s.effAddr last ≤ 4095)

/-- The fault of an access through I that leaves memory: "the reported address is `max(I, 4096)`" (R56). -/
def State.boundsFault (s : State) : Fault := .memoryBounds (max s.i.toNat 4096)

/-- V[0] to V[x], ascending: the block ST_REGS stores (R144). -/
def State.regBlock (s : State) (x : Reg) : List Byte :=
  (List.range (x.val + 1)).map fun k => s.reg (Fin.ofNat 16 k)

/-- The 12-bit immediate, "zero-extended to 16 bits when written to pc or I or added to V[0]" (R73). -/
def zextNNN (nnn : BitVec 12) : Word := nnn.setWidth 16

/-- A register's value zero-extended to 16 bits (R103, R141, R142). -/
def zextByte (u : Byte) : Word := u.setWidth 16

/-- `zext_16(V[X]) * 5`: the whole byte is multiplied, at 16 bits (R142, D9). -/
def glyphAddr (u : Byte) : Word := zextByte u * 5

/-- Hundreds, tens and ones of a byte, the hundreds first (R52, R143). -/
def bcdDigits (u : Byte) : List Byte :=
  [BitVec.ofNat 8 (u.toNat / 100), BitVec.ofNat 8 (u.toNat / 10 % 10), BitVec.ofNat 8 (u.toNat % 10)]

/-- The 16 key indices, lowest first. -/
def allKeys : List Reg := [0, 1, 2, 3, 4, 5, 6, 7, 8, 9, 10, 11, 12, 13, 14, 15]

/-- K[k]. -/
def State.key (s : State) (k : Reg) : Bool := s.keys[k]

/-- "the smallest such k" with K[k] = true, if there is one (R163). -/
def State.lowestKey (s : State) : Option Reg := allKeys.find? fun k => s.key k

/-- The key index in a register: its value, which must be at most 15 (R160, R161, D8). -/
def keyIndex (u : Byte) : Option Reg := if u.toNat ≤ 15 then some (Fin.ofNat 16 u.toNat) else none

/-- The cell of a sprite's bit: column `(x0 + c) mod 64`, row `(y0 + r) mod 32` (R151). -/
def spritePixel (x0 y0 : Byte) (r c : Nat) : Pixel where
  x := Fin.ofNat 64 (x0.toNat + c)
  y := Fin.ofNat 32 (y0.toNat + r)

/-- The columns of a sprite row's set bits, left to right: "bit 7 is column c = 0, the leftmost" (R151). -/
def setColumns (b : Byte) : List Nat := (List.range 8).filter fun c => b.getLsbD (7 - c)

/-- The cells the set bits of a sprite's rows name, row by row from row `r` and left to right in each (R151). -/
def spritePixelsFrom (x0 y0 : Byte) (r : Nat) : List Byte → List Pixel
  | [] => []
  | b :: rest => (setColumns b).map (spritePixel x0 y0 r) ++ spritePixelsFrom x0 y0 (r + 1) rest

/-- The cells a sprite's set bits name. -/
def spritePixels (x0 y0 : Byte) (rows : List Byte) : List Pixel := spritePixelsFrom x0 y0 0 rows

end Sys2Proof.Machine
end

