-- ==== Sys2Proof/Machine/Control.lean ====
section
/-! DEFINITION. NOP (spec/40_step_cycle.md R94) and the control transfers (spec/41_control_flow.md). A meaning takes
the state at the start of the step, with pc = pc0: it begins with the fetch's advance, or, where it raises a fault,
leaves pc at pc0 (R172). -/

namespace Sys2Proof.Machine

/-- NOP: "nothing (pc stays pc0 + 2 from the fetch)" (R94). -/
def execNop (s : State) : Host.Outcome State Fault Refusal := .next s.advance

/-- RET: StackUnderflow if sp = 0, else pc is the popped entry, used as it is (R100). -/
def execRet (s : State) : Host.Outcome State Fault Refusal :=
  if s.sp.val = 0 then .next (s.takeFault .stackUnderflow (encode .ret))
  else .next (s.pop.2.setPc s.pop.1)

/-- JP: pc <- zext_16(NNN), never checked (R101, D21). -/
def execJp (nnn : BitVec 12) (s : State) : Host.Outcome State Fault Refusal := .next (s.setPc (zextNNN nnn))

/-- CALL: StackOverflow if sp = 16, else the advanced pc is pushed and pc <- zext_16(NNN) (R102). -/
def execCall (nnn : BitVec 12) (s : State) : Host.Outcome State Fault Refusal :=
  if s.sp.val = 16 then .next (s.takeFault .stackOverflow (encode (.call nnn)))
  else .next ((s.push s.advance.pc).setPc (zextNNN nnn))

/-- JP_V0: pc <- zext_16(V[0]) + zext_16(NNN), not reduced to 12 bits (R103). -/
def execJpV0 (nnn : BitVec 12) (s : State) : Host.Outcome State Fault Refusal :=
  .next (s.setPc (zextByte (s.reg 0) + zextNNN nnn))

/-- SE Vx, byte: skip if V[X] = NN (R104). -/
def execSeImm (x : Reg) (nn : Byte) (s : State) : Host.Outcome State Fault Refusal :=
  .next (s.skipIf (s.reg x == nn))

/-- SNE Vx, byte: skip if V[X] ≠ NN (R105). -/
def execSneImm (x : Reg) (nn : Byte) (s : State) : Host.Outcome State Fault Refusal :=
  .next (s.skipIf (s.reg x != nn))

/-- SE Vx, Vy: skip if V[X] = V[Y] (R106). -/
def execSeReg (x y : Reg) (s : State) : Host.Outcome State Fault Refusal :=
  .next (s.skipIf (s.reg x == s.reg y))

/-- SNE Vx, Vy: skip if V[X] ≠ V[Y] (R107). -/
def execSneReg (x y : Reg) (s : State) : Host.Outcome State Fault Refusal :=
  .next (s.skipIf (s.reg x != s.reg y))

end Sys2Proof.Machine
end

