-- ==== Sys2Proof/Machine/Display.lean ====
section
/-! DEFINITION. The framebuffer instructions (spec/44_display.md). -/

namespace Sys2Proof.Machine

/-- CLS: every cell false; VF is not written (R150). -/
def execCls (s : State) : Host.Outcome State Fault Refusal := .next { s.advance with fb := Framebuffer.clear }

/-- The framebuffer and the collision flag after drawing `n` rows from I at (V[X], V[Y]) (R151). -/
def State.drawn (s : State) (x y : Reg) (n : Nat) : Framebuffer × Bool :=
  drawPixels s.fb (spritePixels (s.reg x) (s.reg y) (s.loadBytes (s.effAddr 0) n))

/-- DRW Vx, Vy, n: the sprite is XORed in with wrap-around, VF = collision, written last; with n = 0 nothing is read
or drawn and VF = 0 (R151, D11). -/
def execDrw (x y : Reg) (n : Nat) (s : State) : Host.Outcome State Fault Refusal :=
  if n = 0 ∨ s.inBounds (n - 1) then
    .next ({ s.advance with fb := (s.drawn x y n).1 }.setFlag (s.drawn x y n).2)
  else .next (s.takeFault s.boundsFault (encode (.drw x y n)))

end Sys2Proof.Machine
end

