-- ==== Sys2Proof/Machine/Index.lean ====
section
/-! DEFINITION. The index register and the memory instructions (spec/43_index_memory.md). Every check precedes every
write (R56, R172); I is never changed by a memory access (D18). -/

namespace Sys2Proof.Machine

/-- LD I, addr (R140). -/
def execLdI (nnn : BitVec 12) (s : State) : Host.Outcome State Fault Refusal :=
  .next (s.advance.setI (zextNNN nnn))

/-- ADD I, Vx: wraps modulo 65536, no flag, no fault (R141, D23). -/
def execAddI (x : Reg) (s : State) : Host.Outcome State Fault Refusal :=
  .next (s.advance.setI (s.i + zextByte (s.reg x)))

/-- LD F, Vx: I <- V[X] * 5 (R142, D9). -/
def execLdF (x : Reg) (s : State) : Host.Outcome State Fault Refusal :=
  .next (s.advance.setI (glyphAddr (s.reg x)))

/-- LD B, Vx: the three decimal digits of V[X] to M[I], M[I+1], M[I+2] (R143). -/
def execLdB (x : Reg) (s : State) : Host.Outcome State Fault Refusal :=
  if s.inBounds 2 then .next (s.advance.storeBytes (s.effAddr 0) (bcdDigits (s.reg x)))
  else .next (s.takeFault s.boundsFault (encode (.ldB x)))

/-- LD [I], Vx: V[0] to V[X] to memory from I upward (R144). -/
def execStRegs (x : Reg) (s : State) : Host.Outcome State Fault Refusal :=
  if s.inBounds x.val then .next (s.advance.storeBytes (s.effAddr 0) (s.regBlock x))
  else .next (s.takeFault s.boundsFault (encode (.stRegs x)))

/-- LD Vx, [I]: V[0] to V[X] from memory from I upward (R145). -/
def execLdRegs (x : Reg) (s : State) : Host.Outcome State Fault Refusal :=
  if s.inBounds x.val then .next (s.advance.setRegs 0 (s.loadBytes (s.effAddr 0) (x.val + 1)))
  else .next (s.takeFault s.boundsFault (encode (.ldRegs x)))

end Sys2Proof.Machine
end

