-- ==== Sys2Proof/Machine/Keypad.lean ====
section
/-! DEFINITION. The keypad and timer instructions (spec/45_keypad_timers.md). -/

namespace Sys2Proof.Machine

/-- SKP Vx: skip if K[V[X]] is pressed; KeypadIndex if V[X] > 15 (R160, D8). -/
def execSkp (x : Reg) (s : State) : Host.Outcome State Fault Refusal :=
  match keyIndex (s.reg x) with
  | some k => .next (s.skipIf (s.key k))
  | none => .next (s.takeFault (.keypadIndex (s.reg x)) (encode (.skp x)))

/-- SKNP Vx: skip if K[V[X]] is not pressed; KeypadIndex if V[X] > 15 (R161, D8). -/
def execSknp (x : Reg) (s : State) : Host.Outcome State Fault Refusal :=
  match keyIndex (s.reg x) with
  | some k => .next (s.skipIf (!s.key k))
  | none => .next (s.takeFault (.keypadIndex (s.reg x)) (encode (.sknp x)))

/-- LD Vx, K: the lowest pressed key to V[X]; with none pressed pc is rewound to pc0 and the step is otherwise
without effect, "cooperative polling, not true blocking" (R163, D19). -/
def execLdVxK (x : Reg) (s : State) : Host.Outcome State Fault Refusal :=
  match s.lowestKey with
  | some k => .next (s.advance.setReg x (BitVec.ofNat 8 k.val))
  | none => .next (s.advance.setPc (s.advance.pc - 2))

/-- LD Vx, DT (R162). -/
def execLdVxDt (x : Reg) (s : State) : Host.Outcome State Fault Refusal := .next (s.advance.setReg x s.dt)

/-- LD DT, Vx (R164). -/
def execLdDtVx (x : Reg) (s : State) : Host.Outcome State Fault Refusal := .next (s.advance.setDt (s.reg x))

/-- LD ST, Vx: emits no beep itself (R165). -/
def execLdStVx (x : Reg) (s : State) : Host.Outcome State Fault Refusal := .next (s.advance.setSt (s.reg x))

end Sys2Proof.Machine
end

