-- ==== Sys2Proof/Machine/Events.lean ====
section
/-! DEFINITION. The host's events (spec/10_state.md R36): the STEP cycle (spec/40_step_cycle.md), TICK, KEY, DISPLAY
(spec/60_exceptions.md), RESET and LOAD (spec/70_reset_and_hazards.md), and what each answers to the host. -/

namespace Sys2Proof.Machine

/-- The STEP event (R90): halted, it fetches nothing and changes nothing (R95); else fetch, decode, execute, in this
order, each with its own fault (R91, R92, R174). -/
def stepEvent (s : State) : Host.Outcome State Fault Refusal :=
  if s.fault.isSome then .next s
  else if s.fetchable then
    match decodeWord s.fetchWord with
    | some i => exec i s
    | none => .next (s.takeFault (.unsupportedInstruction s.fetchWord) s.fetchWord)
  else .next (s.takeFault (.memoryBounds (max s.pc.toNat 4096)) 0)

/-- A timer counted down: it "stops at 0 (no wrap to 255)" (R185). -/
def countDown (u : Byte) : Byte := if u = 0 then 0 else u - 1

/-- The TICK event (R185): both timers counted down, nothing else touched. -/
def State.tick (s : State) : State := { s with dt := countDown s.dt, st := countDown s.st }

/-- Whether TICK emits a Beep: "if sound timer equals exactly 1 at the moment of this call" (R185, R186). -/
def State.beeps (s : State) : Bool := s.st == 1

/-- The KEY event: K[k] <- pressed (R187). -/
def State.setKey (s : State) (k : Reg) (pressed : Bool) : State :=
  { s with keys := s.keys.set k.val pressed k.isLt }

/-- Whether LOAD accepts an image: "reject programs larger than 3584 bytes" (R202). -/
def imageFits (data : List Byte) : Bool := decide (data.length ≤ Config.maxImage)

/-- The LOAD event (R202): the image copied from address 512 upward, or, if it does not fit, nothing at all (R177,
D14). -/
def State.load (s : State) (data : List Byte) : State :=
  if imageFits data then s.storeBytes Config.start data else s

/-- One event of the host delivered to the machine (R11, R36). -/
def deliver (e : Event) (s : State) : Host.Outcome State Fault Refusal :=
  match e with
  | .reset => .next s.resetCore
  | .load data => .next (s.load data)
  | .step => stepEvent s
  | .tick => .next s.tick
  | .key k pressed => .next (s.setKey k pressed)
  | .display => .next s

/-- What an event answers to the host (R36, "result"). -/
inductive Reply where
  /-- RESET and KEY answer nothing, TICK nothing when it emits no Beep -/
  | nothing
  /-- LOAD accepted, or STEP completed without a fault -/
  | ok
  /-- LOAD rejected (R177, R202) -/
  | loadOverflow
  /-- STEP raised this fault, or found it latched: "The same tuple is the result STEP returns to the host" (R95, R171) -/
  | faulted (f : FaultRecord)
  /-- TICK emits one Beep (R186) -/
  | beep
  /-- DISPLAY: the "read-only 64×32 boolean grid snapshot" (R188) -/
  | grid (f : Framebuffer)
deriving DecidableEq, Repr

/-- The answer of a STEP that left the machine in a state: its latched fault, or ok. -/
def stepReply (t : State) : Reply :=
  match t.fault with
  | some f => .faulted f
  | none => .ok

/-- What an event delivered to a state answers to the host (R36). -/
def reply (e : Event) (s : State) : Reply :=
  match e with
  | .reset => .nothing
  | .load data => if imageFits data then .ok else .loadOverflow
  | .step =>
    match stepEvent s with
    | .next t => stepReply t
    | .fault _ => .nothing
    | .refused _ => .nothing
  | .tick => if s.beeps then .beep else .nothing
  | .key _ _ => .nothing
  | .display => .grid s.fb

/-- The event the host issues now: the soonest of its schedule, or STEP when the schedule has run out (log entry
4). -/
def State.nextEvent (s : State) : Event := s.schedule.headD .step

/-- The state with that event taken off the schedule. -/
def State.takeEvent (s : State) : State := { s with schedule := s.schedule.tail }

/-- The pc the fetch needs, where pc points outside memory: the start of the program area. -/
def State.fetchablePc (s : State) : Word := if s.fetchable then s.pc else BitVec.ofNat 16 Config.start

/-- A state whose next event is a STEP that fetches at a pc inside memory: not halted, nothing scheduled. -/
def State.readyToStep (s : State) : State := { s with pc := s.fetchablePc, fault := none, schedule := [] }

/-- A word stored where the pc points, high byte first (R51). -/
def State.storeWordAtPc (s : State) (w : Word) : State := s.storeBytes s.pc.toNat (bytesOfWord w)

end Sys2Proof.Machine
end

