-- ==== Sys2Proof/Machine/Step.lean ====
section
/-! DEFINITION. One step of the machine: the host's next event. With an empty schedule that is the STEP event, so a
run from a state with no schedule is a run of instructions (log entry 4). -/

namespace Sys2Proof.Machine

/-- One atomic event, the next of the schedule, or STEP when nothing is scheduled (R11, R190). -/
def step (s : State) : Host.Outcome State Fault Refusal := deliver s.nextEvent s.takeEvent

/-- The state with an instruction word stored where the next step fetches, and nothing in the way of that step (log
entry 11). -/
def State.withFetchWord (s : State) (nbits w : Nat) : State :=
  s.readyToStep.storeWordAtPc (tableWord nbits w)

end Sys2Proof.Machine
end

