-- ==== Sys2Proof/Safety.lean ====
section
/-! DEFINITION. What a safe run is (spec/70_reset_and_hazards.md R204, R207; spec/93_implementation_defined.md U2,
U14): a halted machine is never a successful end. -/

namespace Sys2Proof.Machine

/-- No fault is latched: the core is not halted (R32, R173). -/
def State.running (s : State) : Prop := s.fault = none

/-- Fault causes by their numbers (R170, D10). -/
def Fault.code : Fault → Nat
  | .unsupportedInstruction _ => 1
  | .memoryBounds _ => 2
  | .stackOverflow => 3
  | .stackUnderflow => 4
  | .keypadIndex _ => 5

/-- What a program must respect for an instruction not to fault (R207 a to c, and R100's empty stack). -/
def State.respects (s : State) : Instr → Bool
  | .ret => decide (0 < s.sp.val)
  | .call _ => decide (s.sp.val < 16)
  | .skp x => decide ((s.reg x).toNat ≤ 15)
  | .sknp x => decide ((s.reg x).toNat ≤ 15)
  | .ldB _ => s.inBounds 2
  | .stRegs x => s.inBounds x.val
  | .ldRegs x => s.inBounds x.val
  | .drw _ _ n => decide (n = 0) || s.inBounds (n - 1)
  | .nop => true
  | .cls => true
  | .jp _ => true
  | .seImm _ _ => true
  | .sneImm _ _ => true
  | .seReg _ _ => true
  | .ldImm _ _ => true
  | .addImm _ _ => true
  | .ldReg _ _ => true
  | .or _ _ => true
  | .and _ _ => true
  | .xor _ _ => true
  | .addReg _ _ => true
  | .sub _ _ => true
  | .shr _ _ => true
  | .subn _ _ => true
  | .shl _ _ => true
  | .sneReg _ _ => true
  | .ldI _ => true
  | .jpV0 _ => true
  | .rnd _ _ => true
  | .ldVxDt _ => true
  | .ldVxK _ => true
  | .ldDtVx _ => true
  | .ldStVx _ => true
  | .addI _ => true
  | .ldF _ => true

/-- The machine after `k` steps, if none of them faulted: U2, "every claim carries 'no fault recorded' as a
premise". -/
def State.safeRun (s : State) (k : Nat) : Prop :=
  ∀ j ≤ k, ∃ t, Sys2Proof.core.run j s = .next t ∧ t.fault = none

/-- The end marker of a program: the word at pc is a JP to pc itself (R204, U14). -/
def State.atEndMarker (s : State) : Prop :=
  s.fault = none ∧ s.fetchable = true ∧ ∃ nnn, decodeWord s.fetchWord = some (.jp nnn) ∧ zextNNN nnn = s.pc

/-- What the machine keeps true at every step: memory is canonical and lists only the 4096 addresses that exist
(R50), pc never exceeds 4350 and a stack entry never exceeds 4096 (R23), and a latched fault is the one of the
instruction pc still points at (R172, R173). -/
structure State.Inv (s : State) : Prop where
  memory : Memory.wf s.font s.mem
  pc : s.pc.toNat ≤ 4350
  stack : ∀ k : Reg, (s.stack[k]).toNat ≤ 4096
  latch : ∀ f, s.fault = some f → f.pc0 = s.pc

end Sys2Proof.Machine
end

