-- ==== Sys2Proof/Certificates/Slice0/Obligations.lean ====
section
/-! DEFINITION. The statements about the machine, one `def Obligations.<Name> : Prop` each, over a small vocabulary of
their own. A result is said in natural-number arithmetic and through the reads of one register, one cell or one
byte, so that it does not repeat the definition it is about. "Running" (no fault latched) stands as a premise where an
instruction executes: a halted core executes none (R95), and U2 asks it of every claim. -/

namespace Sys2Proof.Claims

open Sys2Proof Sys2Proof.Machine

/-! ### Frames: what two states share -/

/-- Everything but the pc is as before: every register, every flag, I, stack, timers, keys, framebuffer, memory,
latch and the model's own fields. -/
def OnlyPc (s t : State) : Prop := t = { s with pc := t.pc }

/-- Everything but the pc and the registers V is as before. -/
def OnlyPcV (s t : State) : Prop := t = { s with pc := t.pc, v := t.v }

/-- Everything but the pc and I is as before. -/
def OnlyPcI (s t : State) : Prop := t = { s with pc := t.pc, i := t.i }

/-- Everything but the pc, sp and the call stack is as before. -/
def OnlyPcStack (s t : State) : Prop := t = { s with pc := t.pc, sp := t.sp, stack := t.stack }

/-- Everything but the pc and memory is as before. -/
def OnlyPcMem (s t : State) : Prop := t = { s with pc := t.pc, mem := t.mem }

/-- Everything but the pc, the registers V and the framebuffer is as before. -/
def OnlyPcVFb (s t : State) : Prop := t = { s with pc := t.pc, v := t.v, fb := t.fb }

/-- Every byte of memory reads as before. -/
def SameBytes (s t : State) : Prop := ∀ a, t.byteAt a = s.byteAt a

/-- Register `x` holds the number `n`, every other register what it held. -/
def WritesReg (s t : State) (x : Reg) (n : Nat) : Prop :=
  (t.reg x).toNat = n ∧ ∀ r, r ≠ x → t.reg r = s.reg r

/-- Register `x` is written with the number `n` and then VF with `f`: with x = 15 the flag stands (R131). -/
def WritesRegFlag (s t : State) (x : Reg) (n f : Nat) : Prop :=
  (t.reg 15).toNat = f ∧ (x ≠ 15 → (t.reg x).toNat = n) ∧ ∀ r, r ≠ x → r ≠ 15 → t.reg r = s.reg r

/-! ### The words of the opcode table (R75), as numbers -/

/-- Format NNN: the opcode's match value with NNN in bits 11:0. -/
def patNNN (m : Nat) (nnn : BitVec 12) : Word := BitVec.ofNat 16 (m + nnn.toNat)

/-- Format XNN: X in bits 11:8, NN in bits 7:0. -/
def patXNN (m : Nat) (x : Reg) (nn : Byte) : Word := BitVec.ofNat 16 (m + 256 * x.val + nn.toNat)

/-- Formats XY and XYN: X in bits 11:8, Y in bits 7:4, N (0 in format XY) in bits 3:0. -/
def patXYN (m : Nat) (x y : Reg) (n : Nat) : Word := BitVec.ofNat 16 (m + 256 * x.val + 16 * y.val + n)

/-- Format X: X in bits 11:8. -/
def patX (m : Nat) (x : Reg) : Word := BitVec.ofNat 16 (m + 256 * x.val)

/-- One row of R75: name, match and mask. -/
structure Row where
  name : String
  value : Word
  mask : Word
deriving DecidableEq, Repr

/-- R75, rows 1 to 14. -/
def rows1 : List Row :=
  [⟨"NOP", 0x0000, 0xFFFF⟩, ⟨"CLS", 0x00E0, 0xFFFF⟩, ⟨"RET", 0x00EE, 0xFFFF⟩, ⟨"JP", 0x1000, 0xF000⟩,
   ⟨"CALL", 0x2000, 0xF000⟩, ⟨"SE_IMM", 0x3000, 0xF000⟩, ⟨"SNE_IMM", 0x4000, 0xF000⟩, ⟨"SE_REG", 0x5000, 0xF00F⟩,
   ⟨"LD_IMM", 0x6000, 0xF000⟩, ⟨"ADD_IMM", 0x7000, 0xF000⟩, ⟨"LD_REG", 0x8000, 0xF00F⟩, ⟨"OR", 0x8001, 0xF00F⟩,
   ⟨"AND", 0x8002, 0xF00F⟩, ⟨"XOR", 0x8003, 0xF00F⟩]

/-- R75, rows 15 to 35. -/
def rows2 : List Row :=
  [⟨"ADD_REG", 0x8004, 0xF00F⟩, ⟨"SUB", 0x8005, 0xF00F⟩, ⟨"SHR", 0x8006, 0xF00F⟩, ⟨"SUBN", 0x8007, 0xF00F⟩,
   ⟨"SHL", 0x800E, 0xF00F⟩, ⟨"SNE_REG", 0x9000, 0xF00F⟩, ⟨"LD_I", 0xA000, 0xF000⟩, ⟨"JP_V0", 0xB000, 0xF000⟩,
   ⟨"RND", 0xC000, 0xF000⟩, ⟨"DRW", 0xD000, 0xF000⟩, ⟨"SKP", 0xE09E, 0xF0FF⟩, ⟨"SKNP", 0xE0A1, 0xF0FF⟩] ++
  [⟨"LD_VX_DT", 0xF007, 0xF0FF⟩, ⟨"LD_VX_K", 0xF00A, 0xF0FF⟩, ⟨"LD_DT_VX", 0xF015, 0xF0FF⟩,
   ⟨"LD_ST_VX", 0xF018, 0xF0FF⟩, ⟨"ADD_I", 0xF01E, 0xF0FF⟩, ⟨"LD_F", 0xF029, 0xF0FF⟩, ⟨"LD_B", 0xF033, 0xF0FF⟩,
   ⟨"ST_REGS", 0xF055, 0xF0FF⟩, ⟨"LD_REGS", 0xF065, 0xF0FF⟩]

/-- The complete opcode map. -/
def opcodeRows : List Row := rows1 ++ rows2

/-- The words of R79's table, by their four nibbles d1 to d4. -/
def inUnsupportedGroup (w : Word) : Prop :=
  let n := w.toNat
  let d1 := n / 4096
  let d4 := n % 16
  let nn := n % 256
  (d1 = 0 ∧ n ≠ 0 ∧ n ≠ 0x00E0 ∧ n ≠ 0x00EE) ∨ (d1 = 5 ∧ d4 ≠ 0) ∨
  (d1 = 8 ∧ d4 ∈ [0x8, 0x9, 0xA, 0xB, 0xC, 0xD, 0xF]) ∨ (d1 = 9 ∧ d4 ≠ 0) ∨
  (d1 = 0xE ∧ nn ∉ [0x9E, 0xA1]) ∨
  (d1 = 0xF ∧ nn ∉ [0x07, 0x0A, 0x15, 0x18, 0x1E, 0x29, 0x33, 0x55, 0x65])

/-! ### Which instruction may write what (R20 to R31, R37) -/

/-- The registers an instruction names as destinations, VF as a side effect included (R21). -/
def writesReg : Instr → Reg → Prop
  | .ldImm x _, r => r = x
  | .addImm x _, r => r = x
  | .ldReg x _, r => r = x
  | .or x _, r => r = x
  | .and x _, r => r = x
  | .xor x _, r => r = x
  | .rnd x _, r => r = x
  | .ldVxDt x, r => r = x
  | .ldVxK x, r => r = x
  | .addReg x _, r => r = x ∨ r = 15
  | .sub x _, r => r = x ∨ r = 15
  | .shr x _, r => r = x ∨ r = 15
  | .subn x _, r => r = x ∨ r = 15
  | .shl x _, r => r = x ∨ r = 15
  | .drw _ _ _, r => r = 15
  | .ldRegs x, r => r ≤ x
  | _, _ => False

/-- The memory bytes an instruction stores to: the first address and how many, computed as the meaning does. -/
def storesTo : Instr → State → Nat × Nat
  | .ldB _, s => (s.effAddr 0, 3)
  | .stRegs x, s => (s.effAddr 0, x.val + 1)
  | _, _ => (0, 0)

/-- The instructions that write I (R24). -/
def writesI (i : Instr) : Prop := (∃ nnn, i = .ldI nnn) ∨ (∃ x, i = .addI x) ∨ ∃ x, i = .ldF x

/-- The instructions that write the call stack or sp (R25, R26). -/
def writesStack (i : Instr) : Prop := i = .ret ∨ ∃ nnn, i = .call nnn

/-- The instructions that write the framebuffer (R31, R188). -/
def writesFb (i : Instr) : Prop := i = .cls ∨ ∃ x y n, i = .drw x y n

/-- The instructions that write memory (R37). -/
def writesMem (i : Instr) : Prop := (∃ x, i = .ldB x) ∨ ∃ x, i = .stRegs x

/-- The fault causes an instruction may raise, with the datum each records (R170, R174). -/
def mayRaise : Instr → State → Fault → Prop
  | .ret, _, c => c = .stackUnderflow
  | .call _, _, c => c = .stackOverflow
  | .skp x, s, c => c = .keypadIndex (s.reg x)
  | .sknp x, s, c => c = .keypadIndex (s.reg x)
  | .drw _ _ _, s, c => c = .memoryBounds (max s.i.toNat 4096)
  | .ldB _, s, c => c = .memoryBounds (max s.i.toNat 4096)
  | .stRegs _, s, c => c = .memoryBounds (max s.i.toNat 4096)
  | .ldRegs _, s, c => c = .memoryBounds (max s.i.toNat 4096)
  | _, _, _ => False

/-- R23's table: the pc at the end of a step that raises no fault. -/
def pcAfter : Instr → State → Nat
  | .jp nnn, _ => nnn.toNat
  | .call nnn, _ => nnn.toNat
  | .jpV0 nnn, s => (s.reg 0).toNat + nnn.toNat
  | .ret, s => (s.pop.1).toNat
  | .seImm x nn, s => if s.reg x = nn then s.pc.toNat + 4 else s.pc.toNat + 2
  | .sneImm x nn, s => if s.reg x = nn then s.pc.toNat + 2 else s.pc.toNat + 4
  | .seReg x y, s => if s.reg x = s.reg y then s.pc.toNat + 4 else s.pc.toNat + 2
  | .sneReg x y, s => if s.reg x = s.reg y then s.pc.toNat + 2 else s.pc.toNat + 4
  | .skp x, s => if s.key (Fin.ofNat 16 (s.reg x).toNat) = true then s.pc.toNat + 4 else s.pc.toNat + 2
  | .sknp x, s => if s.key (Fin.ofNat 16 (s.reg x).toNat) = true then s.pc.toNat + 2 else s.pc.toNat + 4
  | .ldVxK _, s => if (∃ k, s.key k = true) then s.pc.toNat + 2 else s.pc.toNat
  | _, s => s.pc.toNat + 2

/-! ### Sprites (R151) -/

/-- A set bit of the sprite of `n` rows at I falls on the cell: bit 7 − c of row r, at column (V[X] + c) mod 64 and
row (V[Y] + r) mod 32. -/
def SpriteCovers (s : State) (x y : Reg) (n : Nat) (p : Pixel) : Prop :=
  ∃ r c, r < n ∧ c < 8 ∧ (s.byteAt (s.i.toNat + r)).getLsbD (7 - c) = true ∧
    p.x.val = ((s.reg x).toNat + c) % 64 ∧ p.y.val = ((s.reg y).toNat + r) % 32

/-! ### Two runs compared -/

/-- Two states that differ at most in stack entries that are not live, those at index sp and above (R26). -/
def SameLive (s t : State) : Prop :=
  t = { s with stack := t.stack } ∧ ∀ k : Reg, k.val < s.sp.val → t.stack[k] = s.stack[k]

end Sys2Proof.Claims

open Sys2Proof Sys2Proof.Machine Sys2Proof.Claims

/-! ### Encoding -/

/-- R75: "a word w is the instruction iff `w & mask == match`", for each of the 35 rows and every word; each
instruction has a row. So no two rows overlap, and no word falls through to a neighbour (R74). -/
def Obligations.DecodingIsTheOpcodeTable : Prop :=
  (∀ (w : Word), ∀ r ∈ opcodeRows, w &&& r.mask = r.value ↔ ∃ i, decodeWord w = some i ∧ i.mnemonic = r.name) ∧
  (∀ i : Instr, ∃ r ∈ opcodeRows, r.name = i.mnemonic) ∧ opcodeRows.length = 35

/-- R70, R71, R75: for every well-formed instruction, every operand at every value, decoding its word gives it back,
and so does decoding its bytes, with the bytes that follow left over. -/
def Obligations.DecodeOfEncodeIsTheInstruction : Prop :=
  ∀ i : Instr, i.wellFormed = true →
    decodeWord (encode i) = some i ∧ ∀ rest, decodeBytes (encodeBytes i ++ rest) = .instr i rest

/-- R74: decoding loses no bit: a word that decodes is the encoding of what it decodes to, which is well-formed. -/
def Obligations.EncodeOfDecodeIsTheWord : Prop :=
  ∀ (w : Word) (i : Instr), decodeWord w = some i → i.wellFormed = true ∧ encode i = w

/-- R79: the unsupported words are exactly the six groups of its table. -/
def Obligations.UnsupportedWordsAreTheSixGroups : Prop :=
  ∀ w : Word, decodeWord w = none ↔ inUnsupportedGroup w

/-- R75, a word of each group written out bit by bit, and the example of S14. -/
def Obligations.WrittenOutWordsDecode : Prop :=
  decodeWord 0b0001001000110100 = some (.jp 0x234) ∧
  decodeWord 0b0110101000101011 = some (.ldImm 10 0x2B) ∧
  decodeWord 0b1000000100100100 = some (.addReg 1 2) ∧
  decodeWord 0b1101000000010101 = some (.drw 0 1 5) ∧
  decodeWord 0b1110001010011110 = some (.skp 2) ∧
  decodeWord 0b1111001101010101 = some (.stRegs 3)

/-! ### The step -/

/-- R90 to R93: when the host issues STEP, the core is not halted, both bytes at pc exist and the word there decodes,
the step is that instruction's meaning on the state as it was (less the event just taken off the host's schedule, the
model's own field). The word is the two bytes at pc, high byte first, pc odd or even (R51, R53). -/
def Obligations.StepRunsTheDecodedInstruction : Prop :=
  ∀ (s : State) (i : Instr), s.nextEvent = .step → s.running → s.pc.toNat ≤ 4094 →
    decodeWord (BitVec.ofNat 16 ((s.byteAt s.pc.toNat).toNat * 256 + (s.byteAt (s.pc.toNat + 1)).toNat)) = some i →
    step s = exec i s.takeEvent

/-- R91 and R170, cause 2: a fetch whose second byte lies outside memory latches MemoryBounds(max(pc0, 4096)) with
word 0 and changes nothing else (the all-or-nothing effect is the spec's decision D3, log entry 1). -/
def Obligations.FetchOutsideMemoryLatchesMemoryBounds : Prop :=
  ∀ s : State, s.nextEvent = .step → s.running → 4094 < s.pc.toNat →
    step s = .next { s.takeEvent with
      fault := some { cause := .memoryBounds (max s.pc.toNat 4096), pc0 := s.pc, word := 0 } }

/-- R92 and R170, cause 1: a word of R79's groups latches UnsupportedInstruction(w), "identifying the raw 16-bit
word", and changes nothing else (decision D3, log entry 1). -/
def Obligations.UnsupportedWordLatchesItself : Prop :=
  ∀ s : State, s.nextEvent = .step → s.running → s.pc.toNat ≤ 4094 → inUnsupportedGroup s.fetchWord →
    step s = .next { s.takeEvent with
      fault := some { cause := .unsupportedInstruction s.fetchWord, pc0 := s.pc, word := s.fetchWord } }

/-- R95 (decision D3, log entry 1): halted, a STEP changes nothing and answers the latched fault again. -/
def Obligations.HaltedStepChangesNothing : Prop :=
  ∀ (s : State) (f : FaultRecord), s.nextEvent = .step → s.fault = some f →
    step s = .next s.takeEvent ∧ reply .step s = .faulted f

/-- The machine never stops: whatever the host issues next, the step answers a next state (a fault is one, log entry
1), and the font and the rest of the schedule are as before. -/
def Obligations.EveryStepAnswersANextState : Prop :=
  ∀ s : State, ∃ t, step s = .next t ∧ t.font = s.font ∧ t.schedule = s.schedule.tail

/-- R171, R172 (decision D3, log entry 1): a STEP that raises a fault changes nothing but the latch, which records the
address of the instruction and its word, 0 if the fetch itself faulted. The host is answered the same record. -/
def Obligations.FaultingStepChangesOnlyTheLatch : Prop :=
  ∀ (s t : State) (f : FaultRecord), s.nextEvent = .step → s.running → step s = .next t → t.fault = some f →
    t = { s.takeEvent with fault := some f } ∧ f.pc0 = s.pc ∧
    f.word = (if s.pc.toNat ≤ 4094 then s.fetchWord else 0) ∧ reply .step s = .faulted f

/-- R170, R174: an instruction raises a fault exactly when the condition of R170's table holds for it, and then the
one cause the table gives it, with the datum it records and its own word; any other instruction never faults (causes
and conditions in part by decisions D5, D8, D11, log entries 1 and 8). -/
def Obligations.InstructionsFaultExactlyAsTabled : Prop :=
  ∀ (i : Instr) (s : State), s.running →
    (s.respects i = true → ∃ t, exec i s = .next t ∧ t.fault = none) ∧
    (s.respects i = false → ∃ c, mayRaise i s c ∧
      exec i s = .next { s with fault := some { cause := c, pc0 := s.pc, word := encode i } })

/-- R23: how each instruction leaves pc, fetched at a pc that exists, when it raises no fault. -/
def Obligations.PcAfterEveryInstruction : Prop :=
  ∀ (i : Instr) (s t : State), s.running → s.pc.toNat ≤ 4094 → exec i s = .next t → t.fault = none →
    t.pc.toNat = pcAfter i s

/-! ### Frames over all instructions -/

/-- R20, R21: an instruction changes no register but its destinations and, for the six instructions of R21's table,
VF. -/
def Obligations.OnlyDestinationRegistersChange : Prop :=
  ∀ (i : Instr) (s t : State) (r : Reg), s.running → exec i s = .next t → ¬ writesReg i r → t.reg r = s.reg r

/-- R21: "the instructions that write it as a flag write exactly 0 or 1". -/
def Obligations.FlagWritersLeaveZeroOrOne : Prop :=
  ∀ (s t : State) (x y : Reg) (n : Nat), s.running →
    (exec (.addReg x y) s = .next t ∨ exec (.sub x y) s = .next t ∨ exec (.shr x y) s = .next t ∨
      exec (.subn x y) s = .next t ∨ exec (.shl x y) s = .next t ∨
      (exec (.drw x y n) s = .next t ∧ t.fault = none)) →
    t.reg 15 = 0 ∨ t.reg 15 = 1

/-- R24 to R31, R37, R187: which instructions write I, the stack, each timer, the framebuffer; none writes the
keypad, the font or the schedule; only RND draws a random byte (R189). -/
def Obligations.SpecialStateIsWrittenOnlyByItsInstructions : Prop :=
  ∀ (i : Instr) (s t : State), s.running → exec i s = .next t →
    (¬ writesI i → t.i = s.i) ∧ (¬ writesStack i → t.sp = s.sp ∧ t.stack = s.stack) ∧
    ((∀ x, i ≠ .ldDtVx x) → t.dt = s.dt) ∧ ((∀ x, i ≠ .ldStVx x) → t.st = s.st) ∧
    (¬ writesFb i → t.fb = s.fb) ∧ ((∀ x nn, i ≠ .rnd x nn) → t.draws = s.draws) ∧
    t.keys = s.keys ∧ t.font = s.font ∧ t.schedule = s.schedule

/-- R37, R56: LD_B and ST_REGS change no byte outside the bytes they store to, from `I` upward; every other
instruction changes no byte at all. -/
def Obligations.OnlyStoredBytesChange : Prop :=
  ∀ (i : Instr) (s t : State), s.running → exec i s = .next t →
    (writesMem i → ∀ a, (a < (storesTo i s).1 ∨ (storesTo i s).1 + (storesTo i s).2 ≤ a) →
      t.byteAt a = s.byteAt a) ∧
    (¬ writesMem i → SameBytes s t)

/-- R96: apart from RND, an instruction's effect does not depend on which random byte comes next. -/
def Obligations.OnlyRndDependsOnTheRandomByte : Prop :=
  ∀ (i : Instr) (s : State) (d : Nat), (∀ x nn, i ≠ .rnd x nn) →
    ∃ t, exec i s = .next t ∧ exec i { s with draws := d } = .next { t with draws := d }

/-! ### The invariant -/

/-- R23, R50, R172: every event of the host keeps memory canonical, pc at most 4350, stack entries at most 4096, and a
latched fault the one of the instruction pc points at (the last by decision D3, log entry 1). -/
def Obligations.EveryStepKeepsTheInvariant : Prop :=
  ∀ s t : State, s.Inv → step s = .next t → t.Inv

/-- R35: the state after reset meets the invariant. -/
def Obligations.ResetMeetsTheInvariant : Prop := State.reset.Inv

/-! ### NOP and control flow -/

/-- R94: the word 0x0000 is NOP; pc stays pc0 + 2 and nothing else changes. -/
def Obligations.NopOnlyAdvances : Prop :=
  (∀ w : Word, decodeWord w = some .nop ↔ w = 0x0000) ∧
  ∀ s : State, s.running → ∃ t, exec .nop s = .next t ∧ OnlyPc s t ∧ t.pc = s.pc + 2

/-- R101, R103: JP and JP_V0 set pc and nothing else; the sum of JP_V0 is not reduced to 12 bits. -/
def Obligations.JumpsSetPc : Prop :=
  (∀ nnn : BitVec 12, decodeWord (patNNN 0x1000 nnn) = some (.jp nnn) ∧
    ∀ s : State, s.running → ∃ t, exec (.jp nnn) s = .next t ∧ OnlyPc s t ∧ t.pc.toNat = nnn.toNat) ∧
  (∀ nnn : BitVec 12, decodeWord (patNNN 0xB000 nnn) = some (.jpV0 nnn) ∧
    ∀ s : State, s.running →
      ∃ t, exec (.jpV0 nnn) s = .next t ∧ OnlyPc s t ∧ t.pc.toNat = (s.reg 0).toNat + nnn.toNat)

/-- R102 (decision D5, log entry 7): CALL with room on the stack pushes the address of the next instruction at index
sp, leaves every other entry, and jumps; with 16 entries it raises StackOverflow. -/
def Obligations.CallPushesTheReturnAddress : Prop :=
  ∀ nnn : BitVec 12, decodeWord (patNNN 0x2000 nnn) = some (.call nnn) ∧
    ∀ s : State, s.running →
      (s.sp.val < 16 → ∃ t, exec (.call nnn) s = .next t ∧ OnlyPcStack s t ∧ t.pc.toNat = nnn.toNat ∧
        t.sp.val = s.sp.val + 1 ∧
        (∀ k : Reg, t.stack[k] = if k.val = s.sp.val then s.pc + 2 else s.stack[k])) ∧
      (s.sp.val = 16 → exec (.call nnn) s = .next { s with
        fault := some { cause := .stackOverflow, pc0 := s.pc, word := patNNN 0x2000 nnn } })

/-- R100 (decision D5, log entry 7): RET with a live entry pops it into pc and clears nothing; with none it raises
StackUnderflow. -/
def Obligations.ReturnPopsIntoPc : Prop :=
  (∀ w : Word, decodeWord w = some .ret ↔ w = 0x00EE) ∧
  ∀ s : State, s.running →
    (∀ k : Reg, s.sp.val = k.val + 1 → ∃ t, exec .ret s = .next t ∧ OnlyPcStack s t ∧ t.stack = s.stack ∧
      t.sp.val = k.val ∧ t.pc = s.stack[k]) ∧
    (s.sp.val = 0 → exec .ret s = .next { s with
      fault := some { cause := .stackUnderflow, pc0 := s.pc, word := 0x00EE } })

/-- R100's property: "`call(0x300)` then immediately `return` restores pc to the instruction after the original call;
stack pointer returns to its pre-call value", from any state with room, for any target, and whatever else the
subroutine did as long as it left the stack as the call made it. -/
def Obligations.CallThenReturnComesBack : Prop :=
  ∀ (s t u : State) (nnn : BitVec 12), s.running → s.sp.val < 16 → exec (.call nnn) s = .next t →
    u.running → u.sp = t.sp → u.stack = t.stack →
    ∃ w, exec .ret u = .next w ∧ w.pc = s.pc + 2 ∧ w.sp = s.sp ∧
      ∀ k : Reg, k.val < s.sp.val → w.stack[k] = s.stack[k]

/-- R104 to R107: each skip compares and, if its condition holds, passes over exactly one instruction; it writes
nothing else. -/
def Obligations.SkipsCompareAndSkip : Prop :=
  (∀ (x : Reg) (nn : Byte), decodeWord (patXNN 0x3000 x nn) = some (.seImm x nn) ∧
    ∀ s : State, s.running → ∃ t, exec (.seImm x nn) s = .next t ∧ OnlyPc s t ∧
      t.pc = if (s.reg x).toNat = nn.toNat then s.pc + 4 else s.pc + 2) ∧
  (∀ (x : Reg) (nn : Byte), decodeWord (patXNN 0x4000 x nn) = some (.sneImm x nn) ∧
    ∀ s : State, s.running → ∃ t, exec (.sneImm x nn) s = .next t ∧ OnlyPc s t ∧
      t.pc = if (s.reg x).toNat = nn.toNat then s.pc + 2 else s.pc + 4) ∧
  (∀ x y : Reg, decodeWord (patXYN 0x5000 x y 0) = some (.seReg x y) ∧
    ∀ s : State, s.running → ∃ t, exec (.seReg x y) s = .next t ∧ OnlyPc s t ∧
      t.pc = if (s.reg x).toNat = (s.reg y).toNat then s.pc + 4 else s.pc + 2) ∧
  (∀ x y : Reg, decodeWord (patXYN 0x9000 x y 0) = some (.sneReg x y) ∧
    ∀ s : State, s.running → ∃ t, exec (.sneReg x y) s = .next t ∧ OnlyPc s t ∧
      t.pc = if (s.reg x).toNat = (s.reg y).toNat then s.pc + 2 else s.pc + 4)

/-! ### Load, arithmetic, logic, shift, random -/

/-- R120, R122: V[X] receives the immediate, or V[Y]; nothing else but pc changes, VF included unless X = 15. -/
def Obligations.LoadsWriteTheRegister : Prop :=
  (∀ (x : Reg) (nn : Byte), decodeWord (patXNN 0x6000 x nn) = some (.ldImm x nn) ∧
    ∀ s : State, s.running → ∃ t, exec (.ldImm x nn) s = .next t ∧ OnlyPcV s t ∧ t.pc = s.pc + 2 ∧
      WritesReg s t x nn.toNat) ∧
  (∀ x y : Reg, decodeWord (patXYN 0x8000 x y 0) = some (.ldReg x y) ∧
    ∀ s : State, s.running → ∃ t, exec (.ldReg x y) s = .next t ∧ OnlyPcV s t ∧ t.pc = s.pc + 2 ∧
      WritesReg s t x (s.reg y).toNat)

/-- R121: the sum modulo 256, and VF not written even when the sum exceeds 255. -/
def Obligations.AddImmediateWrapsWithoutFlag : Prop :=
  ∀ (x : Reg) (nn : Byte), decodeWord (patXNN 0x7000 x nn) = some (.addImm x nn) ∧
    ∀ s : State, s.running → ∃ t, exec (.addImm x nn) s = .next t ∧ OnlyPcV s t ∧ t.pc = s.pc + 2 ∧
      WritesReg s t x (((s.reg x).toNat + nn.toNat) % 256)

/-- R123 to R125: the three logic instructions bit by bit, VF not written as a flag. -/
def Obligations.LogicIsBitwiseWithoutFlag : Prop :=
  (∀ x y : Reg, decodeWord (patXYN 0x8001 x y 0) = some (.or x y) ∧
    ∀ s : State, s.running → ∃ t, exec (.or x y) s = .next t ∧ OnlyPcV s t ∧ t.pc = s.pc + 2 ∧
      (∀ b, (t.reg x).getLsbD b = ((s.reg x).getLsbD b || (s.reg y).getLsbD b)) ∧
      ∀ r, r ≠ x → t.reg r = s.reg r) ∧
  (∀ x y : Reg, decodeWord (patXYN 0x8002 x y 0) = some (.and x y) ∧
    ∀ s : State, s.running → ∃ t, exec (.and x y) s = .next t ∧ OnlyPcV s t ∧ t.pc = s.pc + 2 ∧
      (∀ b, (t.reg x).getLsbD b = ((s.reg x).getLsbD b && (s.reg y).getLsbD b)) ∧
      ∀ r, r ≠ x → t.reg r = s.reg r) ∧
  (∀ x y : Reg, decodeWord (patXYN 0x8003 x y 0) = some (.xor x y) ∧
    ∀ s : State, s.running → ∃ t, exec (.xor x y) s = .next t ∧ OnlyPcV s t ∧ t.pc = s.pc + 2 ∧
      (∀ b, (t.reg x).getLsbD b = ((s.reg x).getLsbD b != (s.reg y).getLsbD b)) ∧
      ∀ r, r ≠ x → t.reg r = s.reg r)

/-- R126: the sum modulo 256, VF the carry, written last: with X = 15 the carry stands; with Y = 15 the old VF is the
addend; with X = Y the register is doubled. -/
def Obligations.AddRegisterSetsCarry : Prop :=
  ∀ x y : Reg, decodeWord (patXYN 0x8004 x y 0) = some (.addReg x y) ∧
    ∀ s : State, s.running → ∃ t, exec (.addReg x y) s = .next t ∧ OnlyPcV s t ∧ t.pc = s.pc + 2 ∧
      WritesRegFlag s t x (((s.reg x).toNat + (s.reg y).toNat) % 256)
        (if 255 < (s.reg x).toNat + (s.reg y).toNat then 1 else 0)

/-- R127, R129: the difference modulo 256, VF 0 if a borrow occurred else 1, written last. -/
def Obligations.SubtractionsSetInvertedBorrow : Prop :=
  (∀ x y : Reg, decodeWord (patXYN 0x8005 x y 0) = some (.sub x y) ∧
    ∀ s : State, s.running → ∃ t, exec (.sub x y) s = .next t ∧ OnlyPcV s t ∧ t.pc = s.pc + 2 ∧
      WritesRegFlag s t x
        (if (s.reg x).toNat < (s.reg y).toNat then (s.reg x).toNat + 256 - (s.reg y).toNat
          else (s.reg x).toNat - (s.reg y).toNat)
        (if (s.reg x).toNat < (s.reg y).toNat then 0 else 1)) ∧
  (∀ x y : Reg, decodeWord (patXYN 0x8007 x y 0) = some (.subn x y) ∧
    ∀ s : State, s.running → ∃ t, exec (.subn x y) s = .next t ∧ OnlyPcV s t ∧ t.pc = s.pc + 2 ∧
      WritesRegFlag s t x
        (if (s.reg y).toNat < (s.reg x).toNat then (s.reg y).toNat + 256 - (s.reg x).toNat
          else (s.reg y).toNat - (s.reg x).toNat)
        (if (s.reg y).toNat < (s.reg x).toNat then 0 else 1))

/-- R128, R130, R76: both shift V[X] by one position, whatever Y is, and VF receives the bit shifted out, written
last (with X = 15 by decision D7, log entry 8). -/
def Obligations.ShiftsMoveOneBitIntoTheFlag : Prop :=
  (∀ x y : Reg, decodeWord (patXYN 0x8006 x y 0) = some (.shr x y) ∧
    ∀ s : State, s.running → ∃ t, exec (.shr x y) s = .next t ∧ OnlyPcV s t ∧ t.pc = s.pc + 2 ∧
      WritesRegFlag s t x ((s.reg x).toNat / 2) ((s.reg x).toNat % 2)) ∧
  (∀ x y : Reg, decodeWord (patXYN 0x800E x y 0) = some (.shl x y) ∧
    ∀ s : State, s.running → ∃ t, exec (.shl x y) s = .next t ∧ OnlyPcV s t ∧ t.pc = s.pc + 2 ∧
      WritesRegFlag s t x (2 * (s.reg x).toNat % 256) ((s.reg x).toNat / 128))

/-- R132, R189: V[X] is a random byte AND NN, bit by bit, so its bits outside NN are 0; the draw is spent. The byte is
the free value `Config.randomByte`, of which nothing is known (log entry 3). -/
def Obligations.RandomByteIsMasked : Prop :=
  ∀ (x : Reg) (nn : Byte), decodeWord (patXNN 0xC000 x nn) = some (.rnd x nn) ∧
    ∀ s : State, s.running → ∃ t, exec (.rnd x nn) s = .next t ∧
      t = { s with pc := s.pc + 2, v := t.v, draws := s.draws + 1 } ∧
      (∀ b, (t.reg x).getLsbD b = ((Config.randomByte s.draws).getLsbD b && nn.getLsbD b)) ∧
      ∀ r, r ≠ x → t.reg r = s.reg r

/-! ### Index register and memory -/

/-- R140: I <- NNN, nothing else. -/
def Obligations.LoadIndexWritesI : Prop :=
  ∀ nnn : BitVec 12, decodeWord (patNNN 0xA000 nnn) = some (.ldI nnn) ∧
    ∀ s : State, s.running → ∃ t, exec (.ldI nnn) s = .next t ∧ OnlyPcI s t ∧ t.pc = s.pc + 2 ∧
      t.i.toNat = nnn.toNat

/-- R141, R142 (decisions D23 and D9, log entry 8): I + V[X] modulo 65536, no flag; and 5 times the whole byte V[X],
without wrap. -/
def Obligations.IndexArithmetic : Prop :=
  (∀ x : Reg, decodeWord (patX 0xF01E x) = some (.addI x) ∧
    ∀ s : State, s.running → ∃ t, exec (.addI x) s = .next t ∧ OnlyPcI s t ∧ t.pc = s.pc + 2 ∧
      t.i.toNat = (s.i.toNat + (s.reg x).toNat) % 65536) ∧
  (∀ x : Reg, decodeWord (patX 0xF029 x) = some (.ldF x) ∧
    ∀ s : State, s.running → ∃ t, exec (.ldF x) s = .next t ∧ OnlyPcI s t ∧ t.pc = s.pc + 2 ∧
      t.i.toNat = 5 * (s.reg x).toNat)

/-- R143: three digits, each 0 to 9, that make V[X] in decimal, at I, I+1, I+2; no other byte changes. If a byte would
lie outside memory: MemoryBounds, nothing stored (decision D3, log entry 1). -/
def Obligations.BcdStoresDecimalDigits : Prop :=
  ∀ x : Reg, decodeWord (patX 0xF033 x) = some (.ldB x) ∧
    ∀ s : State, s.running →
      (s.i.toNat + 2 ≤ 4095 → ∃ t, exec (.ldB x) s = .next t ∧ OnlyPcMem s t ∧ t.pc = s.pc + 2 ∧
        (∃ h d o : Nat, h ≤ 9 ∧ d ≤ 9 ∧ o ≤ 9 ∧ (s.reg x).toNat = 100 * h + 10 * d + o ∧
          (t.byteAt s.i.toNat).toNat = h ∧ (t.byteAt (s.i.toNat + 1)).toNat = d ∧
          (t.byteAt (s.i.toNat + 2)).toNat = o) ∧
        ∀ a, (a < s.i.toNat ∨ s.i.toNat + 2 < a) → t.byteAt a = s.byteAt a) ∧
      (4095 < s.i.toNat + 2 → exec (.ldB x) s = .next { s with
        fault := some { cause := .memoryBounds (max s.i.toNat 4096), pc0 := s.pc, word := patX 0xF033 x } })

/-- R144: V[0] to V[X] to memory from I upward, I unchanged (D18), no other byte changed. If a byte would lie outside
memory: MemoryBounds, nothing stored (decision D3, log entry 1). -/
def Obligations.StoreRegistersFromI : Prop :=
  ∀ x : Reg, decodeWord (patX 0xF055 x) = some (.stRegs x) ∧
    ∀ s : State, s.running →
      (s.i.toNat + x.val ≤ 4095 → ∃ t, exec (.stRegs x) s = .next t ∧ OnlyPcMem s t ∧ t.pc = s.pc + 2 ∧
        (∀ k : Reg, k ≤ x → t.byteAt (s.i.toNat + k.val) = s.reg k) ∧
        ∀ a, (a < s.i.toNat ∨ s.i.toNat + x.val < a) → t.byteAt a = s.byteAt a) ∧
      (4095 < s.i.toNat + x.val → exec (.stRegs x) s = .next { s with
        fault := some { cause := .memoryBounds (max s.i.toNat 4096), pc0 := s.pc, word := patX 0xF055 x } })

/-- R145: V[0] to V[X] from memory from I upward, I unchanged (D18), the registers above X unchanged. If a byte would
lie outside memory: MemoryBounds, no register changed (decision D3, log entry 1). -/
def Obligations.LoadRegistersFromI : Prop :=
  ∀ x : Reg, decodeWord (patX 0xF065 x) = some (.ldRegs x) ∧
    ∀ s : State, s.running →
      (s.i.toNat + x.val ≤ 4095 → ∃ t, exec (.ldRegs x) s = .next t ∧ OnlyPcV s t ∧ t.pc = s.pc + 2 ∧
        (∀ k : Reg, k ≤ x → t.reg k = s.byteAt (s.i.toNat + k.val)) ∧
        ∀ k : Reg, x < k → t.reg k = s.reg k) ∧
      (4095 < s.i.toNat + x.val → exec (.ldRegs x) s = .next { s with
        fault := some { cause := .memoryBounds (max s.i.toNat 4096), pc0 := s.pc, word := patX 0xF065 x } })

/-- R145's property: "store registers V0..V5 to memory via `F,5,5,5`, clear them, then load via `F,5,6,5` restores
original values exactly", for every X and whatever the registers hold in between. -/
def Obligations.StoreThenLoadRestoresTheRegisters : Prop :=
  ∀ (x : Reg) (s t u : State), s.running → s.i.toNat + x.val ≤ 4095 → exec (.stRegs x) s = .next t →
    u.running → u.i = s.i → SameBytes t u →
    ∃ w, exec (.ldRegs x) u = .next w ∧ ∀ k : Reg, k ≤ x → w.reg k = s.reg k

/-- R62: "A byte stored by LD_B or ST_REGS ... is therefore seen by every later fetch of that address": a program
that stores V[0], V[1] over the next instruction fetches them as its word in the very next step. -/
def Obligations.StoredBytesAreFetchedNext : Prop :=
  ∀ (x : Reg) (s : State), s.running → 1 ≤ x.val → s.i.toNat + x.val ≤ 4095 → s.i = s.pc + 2 →
    ∃ t, exec (.stRegs x) s = .next t ∧ (t.fetchWord).toNat = (s.reg 0).toNat * 256 + (s.reg 1).toNat

/-- The model's canonical form (log entry 6): two canonical memories that read alike at every address are the same
list, so equal memories are equal data. -/
def Obligations.CanonicalMemoriesThatReadAlikeAreEqual : Prop :=
  ∀ (font : Font) (m n : Memory), Memory.wf font m → Memory.wf font n →
    (∀ a, Memory.read font m a = Memory.read font n a) → m = n

/-! ### Display -/

/-- R150: every cell false, VF and everything else but pc unchanged. -/
def Obligations.ClearScreenClearsEveryCell : Prop :=
  (∀ w : Word, decodeWord w = some .cls ↔ w = 0x00E0) ∧
  ∀ s : State, s.running → ∃ t, exec .cls s = .next t ∧ t = { s with pc := s.pc + 2, fb := t.fb } ∧
    ∀ p, Framebuffer.get t.fb p = false

/-- R151 (N = 0 by decision D11, log entry 8): exactly the cells under the sprite's set bits are toggled, with
wrap-around on both axes; VF is 1 if one of them was set before, else 0; nothing else changes. -/
def Obligations.DrawTogglesTheCellsUnderTheSprite : Prop :=
  ∀ (x y : Reg) (n : Nat), n ≤ 15 → decodeWord (patXYN 0xD000 x y n) = some (.drw x y n) ∧
    ∀ s : State, s.running → (n = 0 ∨ s.i.toNat + (n - 1) ≤ 4095) →
      ∃ t, exec (.drw x y n) s = .next t ∧ OnlyPcVFb s t ∧ t.pc = s.pc + 2 ∧
        (∀ p, SpriteCovers s x y n p → Framebuffer.get t.fb p = !Framebuffer.get s.fb p) ∧
        (∀ p, ¬ SpriteCovers s x y n p → Framebuffer.get t.fb p = Framebuffer.get s.fb p) ∧
        ((∃ p, SpriteCovers s x y n p ∧ Framebuffer.get s.fb p = true) → (t.reg 15).toNat = 1) ∧
        ((¬ ∃ p, SpriteCovers s x y n p ∧ Framebuffer.get s.fb p = true) → (t.reg 15).toNat = 0) ∧
        ∀ r, r ≠ 15 → t.reg r = s.reg r

/-- R151, R56: a sprite with a row outside memory raises MemoryBounds, no cell changed although earlier rows are in
range (decision D3, log entry 1). -/
def Obligations.DrawOutsideMemoryLatchesMemoryBounds : Prop :=
  ∀ (x y : Reg) (n : Nat) (s : State), s.running → 1 ≤ n → n ≤ 15 → 4095 < s.i.toNat + (n - 1) →
    exec (.drw x y n) s = .next { s with
      fault := some { cause := .memoryBounds (max s.i.toNat 4096), pc0 := s.pc, word := patXYN 0xD000 x y n } }

/-- R151's property: "drawing the same sprite twice at the same location restores all touched pixels", whatever they
were, and the second draw reports a collision exactly if it finds a cell set that it toggles, which is one the first
draw found clear. The second draw may name other registers, as long as they hold the same coordinates (VF has
changed). -/
def Obligations.DrawingTwiceRestoresTheScreen : Prop :=
  ∀ (x y x' y' : Reg) (n : Nat) (s t u : State), n ≤ 15 → s.running → u.running →
    (n = 0 ∨ s.i.toNat + (n - 1) ≤ 4095) → exec (.drw x y n) s = .next t →
    u.fb = t.fb → u.i = s.i → SameBytes s u → u.reg x' = s.reg x → u.reg y' = s.reg y →
    ∃ w, exec (.drw x' y' n) u = .next w ∧ (∀ p, Framebuffer.get w.fb p = Framebuffer.get s.fb p) ∧
      ((w.reg 15).toNat = 1 ↔ ∃ p, SpriteCovers s x y n p ∧ Framebuffer.get s.fb p = false)

/-! ### Keypad and timers -/

/-- R160, R161: the key whose index is the value of V[X] decides the skip; a value above 15 raises KeypadIndex
(decision D8, log entry 8). -/
def Obligations.KeySkipsTestTheKey : Prop :=
  (∀ x : Reg, decodeWord (patX 0xE09E x) = some (.skp x) ∧ ∀ s : State, s.running →
    (∀ k : Reg, (s.reg x).toNat = k.val → ∃ t, exec (.skp x) s = .next t ∧ OnlyPc s t ∧
      t.pc = if s.keys[k] = true then s.pc + 4 else s.pc + 2) ∧
    (15 < (s.reg x).toNat → exec (.skp x) s = .next { s with
      fault := some { cause := .keypadIndex (s.reg x), pc0 := s.pc, word := patX 0xE09E x } })) ∧
  (∀ x : Reg, decodeWord (patX 0xE0A1 x) = some (.sknp x) ∧ ∀ s : State, s.running →
    (∀ k : Reg, (s.reg x).toNat = k.val → ∃ t, exec (.sknp x) s = .next t ∧ OnlyPc s t ∧
      t.pc = if s.keys[k] = true then s.pc + 2 else s.pc + 4) ∧
    (15 < (s.reg x).toNat → exec (.sknp x) s = .next { s with
      fault := some { cause := .keypadIndex (s.reg x), pc0 := s.pc, word := patX 0xE0A1 x } }))

/-- R163 (decision D19, log entry 8): with a key pressed V[X] receives the lowest pressed index and pc advances; with
none the state is exactly as it was, pc included, so the next step polls again. -/
def Obligations.KeyWaitTakesTheLowestKeyOrPolls : Prop :=
  ∀ x : Reg, decodeWord (patX 0xF00A x) = some (.ldVxK x) ∧
    ∀ s : State, s.running →
      (∀ k : Reg, s.keys[k] = true → (∀ j : Reg, j < k → s.keys[j] = false) →
        ∃ t, exec (.ldVxK x) s = .next t ∧ OnlyPcV s t ∧ t.pc = s.pc + 2 ∧ WritesReg s t x k.val) ∧
      ((∀ k : Reg, s.keys[k] = false) → exec (.ldVxK x) s = .next s)

/-- R162, R164, and of R165 its assignment `ST <- V[X]`: the three timer moves. (That only TICK emits a Beep is
`Obligations.TickCountsDownAndBeeps`.) -/
def Obligations.TimerMoves : Prop :=
  (∀ x : Reg, decodeWord (patX 0xF007 x) = some (.ldVxDt x) ∧ ∀ s : State, s.running →
    ∃ t, exec (.ldVxDt x) s = .next t ∧ OnlyPcV s t ∧ t.pc = s.pc + 2 ∧ WritesReg s t x s.dt.toNat) ∧
  (∀ x : Reg, decodeWord (patX 0xF015 x) = some (.ldDtVx x) ∧ ∀ s : State, s.running →
    ∃ t, exec (.ldDtVx x) s = .next t ∧ t = { s with pc := s.pc + 2, dt := s.reg x }) ∧
  (∀ x : Reg, decodeWord (patX 0xF018 x) = some (.ldStVx x) ∧ ∀ s : State, s.running →
    ∃ t, exec (.ldStVx x) s = .next t ∧ t = { s with pc := s.pc + 2, st := s.reg x })

/-! ### The host's events -/

/-- R185: TICK counts each timer down by one, stopping at 0, emits a Beep exactly if ST is 1, and touches nothing
else. That it does so on a halted core too is the spec's decision D15 (log entry 1). -/
def Obligations.TickCountsDownAndBeeps : Prop :=
  ∀ s : State, ∃ t, deliver .tick s = .next t ∧ t = { s with dt := t.dt, st := t.st } ∧
    t.dt.toNat = s.dt.toNat - 1 ∧ t.st.toNat = s.st.toNat - 1 ∧
    (s.st.toNat = 1 → reply .tick s = .beep) ∧ (s.st.toNat ≠ 1 → reply .tick s = .nothing)

/-- R186: with ST = n, left alone, the k-th TICK from now emits the Beep exactly if k = n; with n = 0 none does. -/
def Obligations.OneBeepAtTheNthTick : Prop :=
  ∀ (s : State) (k : Nat), reply .tick (State.tick^[k] s) = .beep ↔ k + 1 = s.st.toNat

/-- R35, R200: RESET sets every piece of state to the table's value, from any state, halted or not. FONT is the
model's parameter (R7, R29): the statement holds for every font. -/
def Obligations.ResetSetsEveryPieceOfState : Prop :=
  ∀ s : State, ∃ t, deliver .reset s = .next t ∧ t.pc.toNat = 512 ∧ (∀ r, t.reg r = 0) ∧ t.i = 0 ∧ t.sp = 0 ∧
    (∀ k : Reg, t.stack[k] = 0) ∧ t.dt = 0 ∧ t.st = 0 ∧ (∀ k : Reg, t.keys[k] = false) ∧
    (∀ p, Framebuffer.get t.fb p = false) ∧ (∀ a : Fin 80, t.byteAt a.val = s.font[a]) ∧
    (∀ a, 80 ≤ a → a ≤ 4095 → t.byteAt a = 0) ∧ t.fault = none ∧ reply .reset s = .nothing

/-- R202, R177 (decision D14, log entry 8): an image of at most 3584 bytes is copied from 512 upward and every other
byte and all other state stay; a longer one is rejected and nothing changes. -/
def Obligations.LoadCopiesTheImageOrRejectsIt : Prop :=
  ∀ (s : State) (data : List Byte),
    (data.length ≤ 3584 → ∃ t, deliver (.load data) s = .next t ∧ t = { s with mem := t.mem } ∧
      (∀ j : Fin data.length, t.byteAt (512 + j.val) = data[j]) ∧
      (∀ a, (a < 512 ∨ 512 + data.length ≤ a) → t.byteAt a = s.byteAt a) ∧ reply (.load data) s = .ok) ∧
    (3584 < data.length → deliver (.load data) s = .next s ∧ reply (.load data) s = .loadOverflow)

/-- R187, R188: KEY writes one key and nothing else; DISPLAY changes nothing and answers the framebuffer as it is. -/
def Obligations.KeyAndDisplayEvents : Prop :=
  (∀ (s : State) (k : Reg) (b : Bool), ∃ t, deliver (.key k b) s = .next t ∧ t = { s with keys := t.keys } ∧
    t.keys[k] = b ∧ (∀ j : Reg, j ≠ k → t.keys[j] = s.keys[j]) ∧ reply (.key k b) s = .nothing) ∧
  ∀ s : State, deliver .display s = .next s ∧ reply .display s = .grid s.fb

/-- R173 (decisions D3 and D15, log entry 1): halted, the core stays halted with the same record, and pc, registers, I,
stack and framebuffer stay as they are, through any number of steps and any events the host issues but RESET. -/
def Obligations.HaltedUntilReset : Prop :=
  ∀ (k : Nat) (s : State) (f : FaultRecord), s.fault = some f → (∀ e ∈ s.schedule, e ≠ .reset) →
    ∃ t : State, Sys2Proof.core.run k s = .next t ∧ t.fault = some f ∧ t.pc = s.pc ∧ t.v = s.v ∧ t.i = s.i ∧
      t.sp = s.sp ∧ t.stack = s.stack ∧ t.fb = s.fb

/-- R26: "no instruction can observe them": two machines that differ only in stack entries that are not live make the
same step and give the host the same answer, and differ afterwards only so. -/
def Obligations.StaleStackEntriesAreNeverObserved : Prop :=
  ∀ s t : State, SameLive s t →
    ∃ s' t', step s = .next s' ∧ step t = .next t' ∧ SameLive s' t' ∧ reply s.nextEvent s = reply t.nextEvent t
end

