-- ==== Sys2Proof/Laws/Display.lean ====
section
/-! SUPPORT. The framebuffer cell by cell: what one toggle does, what a list of toggles does, and which cells the set
bits of a sprite name. -/

namespace Sys2Proof.Machine

theorem Pixel.index_val (p : Pixel) : p.index.val = p.y.val * 64 + p.x.val := rfl

theorem Pixel.index_injective {p q : Pixel} (h : p.index = q.index) : p = q := by
  obtain ⟨x, y⟩ := p
  obtain ⟨x', y'⟩ := q
  have h' : y.val * 64 + x.val = y'.val * 64 + x'.val := congrArg Fin.val h
  have hx : x = x' := Fin.ext (by omega)
  have hy : y = y' := Fin.ext (by omega)
  rw [hx, hy]

@[simp] theorem Framebuffer.get_clear (p : Pixel) : Framebuffer.get Framebuffer.clear p = false := by
  simp [Framebuffer.get, Framebuffer.clear]

/-- A toggle changes its own cell and no other. -/
theorem Framebuffer.get_flip (f : Framebuffer) (p q : Pixel) :
    Framebuffer.get (Framebuffer.flip f p) q =
      if q = p then !Framebuffer.get f q else Framebuffer.get f q := by
  by_cases h : q = p
  · subst h
    simp [Framebuffer.get, Framebuffer.flip]
  · have : p.index.val ≠ q.index.val := fun e => h (Pixel.index_injective (Fin.ext e.symm))
    simp [Framebuffer.get, Framebuffer.flip, h, Vector.getElem_set_ne, this]

/-- Two framebuffers that read alike at every cell are equal. -/
theorem Framebuffer.ext {f g : Framebuffer} (h : ∀ p, Framebuffer.get f p = Framebuffer.get g p) : f = g := by
  apply Vector.ext
  intro k hk
  have := h ⟨⟨k % 64, by omega⟩, ⟨k / 64, by omega⟩⟩
  have hi : (Pixel.index ⟨⟨k % 64, by omega⟩, ⟨k / 64, by omega⟩⟩).val = k := by
    rw [Pixel.index_val]
    show k / 64 * 64 + k % 64 = k
    omega
  simpa only [Framebuffer.get, Fin.getElem_fin, hi] using this

/-- Toggling a list of distinct cells toggles exactly those, and reports whether one of them was set. -/
theorem drawPixels_spec (ps : List Pixel) (hn : ps.Nodup) : ∀ (f : Framebuffer) (c : Bool),
    (∀ q, Framebuffer.get (ps.foldl drawPixel (f, c)).1 q =
      if q ∈ ps then !Framebuffer.get f q else Framebuffer.get f q) ∧
    (ps.foldl drawPixel (f, c)).2 = (c || ps.any fun q => Framebuffer.get f q) := by
  induction ps with
  | nil => intro f c; simp
  | cons p rest ih =>
    intro f c
    have hp := List.nodup_cons.1 hn
    obtain ⟨h1, h2⟩ := ih hp.2 (Framebuffer.flip f p) (c || Framebuffer.get f p)
    have hany : (rest.any fun q => Framebuffer.get (Framebuffer.flip f p) q) =
        rest.any fun q => Framebuffer.get f q := by
      rw [Bool.eq_iff_iff, List.any_eq_true, List.any_eq_true]
      have hne : ∀ q ∈ rest, Framebuffer.get (Framebuffer.flip f p) q = Framebuffer.get f q := fun q hq => by
        rw [Framebuffer.get_flip, if_neg]
        rintro rfl
        exact hp.1 hq
      exact exists_congr fun q => and_congr_right fun hq => by rw [hne q hq]
    constructor
    · intro q
      rw [List.foldl_cons, drawPixel, h1, Framebuffer.get_flip]
      by_cases hq : q = p
      · subst hq
        simp [hp.1]
      · simp [hq]
    · rw [List.foldl_cons, drawPixel, h2, hany, List.any_cons, Bool.or_assoc]

/-- The columns of the set bits are the columns 0 to 7 whose bit is set. -/
theorem mem_setColumns (b : Byte) (c : Nat) : c ∈ setColumns b ↔ c < 8 ∧ b.getLsbD (7 - c) = true := by
  simp [setColumns]

theorem mem_spritePixelsFrom (x0 y0 : Byte) (rows : List Byte) : ∀ (r : Nat) (p : Pixel),
    p ∈ spritePixelsFrom x0 y0 r rows ↔
      ∃ k, ∃ h : k < rows.length, ∃ c ∈ setColumns rows[k], spritePixel x0 y0 (r + k) c = p := by
  induction rows with
  | nil => intro r p; simp [spritePixelsFrom]
  | cons b rest ih =>
    intro r p
    rw [spritePixelsFrom, List.mem_append, List.mem_map, ih]
    constructor
    · rintro (⟨c, hc, rfl⟩ | ⟨k, hk, c, hc, rfl⟩)
      · exact ⟨0, by simp, c, by simpa using hc, rfl⟩
      · exact ⟨k + 1, by simpa using hk, c, by simpa using hc, by rw [Nat.add_right_comm, Nat.add_assoc]⟩
    · rintro ⟨k, hk, c, hc, rfl⟩
      cases k with
      | zero => exact .inl ⟨c, by simpa using hc, rfl⟩
      | succ k =>
        exact .inr ⟨k, by simpa using hk, c, by simpa using hc, by rw [Nat.add_right_comm, Nat.add_assoc]⟩

/-- "With N ≤ 15 rows and 8 columns no cell is visited twice in one DRW" (R151). -/
theorem nodup_spritePixelsFrom (x0 y0 : Byte) (rows : List Byte) : ∀ r : Nat, rows.length ≤ 32 →
    (spritePixelsFrom x0 y0 r rows).Nodup := by
  induction rows with
  | nil => intro r _; exact List.nodup_nil
  | cons b rest ih =>
    intro r hl
    simp only [List.length_cons] at hl
    rw [spritePixelsFrom]
    refine List.Nodup.append ?_ (ih (r + 1) (by omega)) ?_
    · refine List.Nodup.map_on ?_ (List.nodup_range.filter _)
      intro c hc d hd h
      have hc8 := ((mem_setColumns b c).1 hc).1
      have hd8 := ((mem_setColumns b d).1 hd).1
      have hx : (x0.toNat + c) % 64 = (x0.toNat + d) % 64 := congrArg (fun p : Pixel => p.x.val) h
      omega
    · intro p hp hq
      obtain ⟨c, -, rfl⟩ := List.mem_map.1 hp
      obtain ⟨k, hk, d, -, h⟩ := (mem_spritePixelsFrom x0 y0 rest (r + 1) _).1 hq
      have hy : (y0.toNat + (r + 1 + k)) % 32 = (y0.toNat + r) % 32 := congrArg (fun p : Pixel => p.y.val) h
      omega

end Sys2Proof.Machine
end

