-- ==== Sys2Proof/Laws/Encoding.lean ====
section
/-! SUPPORT. The numbers behind the three shapes of word the encoder builds, the fields the decoder reads back from
each, and the words rebuilt from their fields. -/

namespace Sys2Proof

/-! ### Words as numbers -/

theorem wordNNN_toNat (op : Nibble) (nnn : BitVec 12) :
    (wordNNN op nnn).toNat = op.toNat * 4096 + nnn.toNat := by
  unfold wordNNN
  erw [BitVec.toNat_append]
  rw [← Nat.shiftLeft_add_eq_or_of_lt nnn.isLt, Nat.shiftLeft_eq]

theorem regNibble_toNat (x : Reg) : (regNibble x).toNat = x.val := rfl

theorem wordXNN_toNat (op : Nibble) (x : Reg) (nn : Byte) :
    (wordXNN op x nn).toNat = op.toNat * 4096 + 256 * x.val + nn.toNat := by
  unfold wordXNN
  erw [BitVec.toNat_append, BitVec.toNat_append]
  rw [← Nat.shiftLeft_add_eq_or_of_lt nn.isLt, ← Nat.shiftLeft_add_eq_or_of_lt (regNibble x).isLt]
  simp only [Nat.shiftLeft_eq, regNibble_toNat]
  omega

theorem wordXYN_toNat (op : Nibble) (x y : Reg) (n : Nibble) :
    (wordXYN op x y n).toNat = op.toNat * 4096 + 256 * x.val + 16 * y.val + n.toNat := by
  unfold wordXYN
  erw [BitVec.toNat_append, BitVec.toNat_append, BitVec.toNat_append]
  rw [← Nat.shiftLeft_add_eq_or_of_lt n.isLt, ← Nat.shiftLeft_add_eq_or_of_lt (regNibble y).isLt,
    ← Nat.shiftLeft_add_eq_or_of_lt (regNibble x).isLt]
  simp only [Nat.shiftLeft_eq, regNibble_toNat]
  omega

theorem wordOfBytes_toNat (hi lo : Byte) : (wordOfBytes hi lo).toNat = hi.toNat * 256 + lo.toNat := by
  unfold wordOfBytes
  erw [BitVec.toNat_append]
  rw [← Nat.shiftLeft_add_eq_or_of_lt lo.isLt, Nat.shiftLeft_eq]

/-! ### Fields as numbers -/

theorem fieldD1_toNat (w : Word) : (fieldD1 w).toNat = w.toNat / 4096 := by
  simp only [fieldD1, BitVec.extractLsb'_toNat, Nat.shiftRight_eq_div_pow]
  omega

theorem fieldX_val (w : Word) : (fieldX w).val = w.toNat / 256 % 16 := by
  show (w.extractLsb' 8 4).toNat = _
  simp only [BitVec.extractLsb'_toNat, Nat.shiftRight_eq_div_pow]

theorem fieldY_val (w : Word) : (fieldY w).val = w.toNat / 16 % 16 := by
  show (w.extractLsb' 4 4).toNat = _
  simp only [BitVec.extractLsb'_toNat, Nat.shiftRight_eq_div_pow]

theorem fieldN_toNat (w : Word) : (fieldN w).toNat = w.toNat % 16 := by
  simp [fieldN, BitVec.extractLsb'_toNat]

theorem fieldNN_toNat (w : Word) : (fieldNN w).toNat = w.toNat % 256 := by
  simp [fieldNN, BitVec.extractLsb'_toNat]

theorem fieldNNN_toNat (w : Word) : (fieldNNN w).toNat = w.toNat % 4096 := by
  simp [fieldNNN, BitVec.extractLsb'_toNat]

/-! ### The fields of a word that was built -/

@[simp] theorem fieldD1_wordNNN (op : Nibble) (nnn : BitVec 12) : fieldD1 (wordNNN op nnn) = op := by
  apply BitVec.eq_of_toNat_eq
  rw [fieldD1_toNat, wordNNN_toNat]
  omega

@[simp] theorem fieldNNN_wordNNN (op : Nibble) (nnn : BitVec 12) : fieldNNN (wordNNN op nnn) = nnn := by
  apply BitVec.eq_of_toNat_eq
  rw [fieldNNN_toNat, wordNNN_toNat]
  omega

@[simp] theorem fieldD1_wordXNN (op : Nibble) (x : Reg) (nn : Byte) : fieldD1 (wordXNN op x nn) = op := by
  apply BitVec.eq_of_toNat_eq
  rw [fieldD1_toNat, wordXNN_toNat]
  omega

@[simp] theorem fieldX_wordXNN (op : Nibble) (x : Reg) (nn : Byte) : fieldX (wordXNN op x nn) = x := by
  apply Fin.ext
  rw [fieldX_val, wordXNN_toNat]
  omega

@[simp] theorem fieldNN_wordXNN (op : Nibble) (x : Reg) (nn : Byte) : fieldNN (wordXNN op x nn) = nn := by
  apply BitVec.eq_of_toNat_eq
  rw [fieldNN_toNat, wordXNN_toNat]
  omega

@[simp] theorem fieldD1_wordXYN (op : Nibble) (x y : Reg) (n : Nibble) : fieldD1 (wordXYN op x y n) = op := by
  apply BitVec.eq_of_toNat_eq
  rw [fieldD1_toNat, wordXYN_toNat]
  omega

@[simp] theorem fieldX_wordXYN (op : Nibble) (x y : Reg) (n : Nibble) : fieldX (wordXYN op x y n) = x := by
  apply Fin.ext
  rw [fieldX_val, wordXYN_toNat]
  omega

@[simp] theorem fieldY_wordXYN (op : Nibble) (x y : Reg) (n : Nibble) : fieldY (wordXYN op x y n) = y := by
  apply Fin.ext
  rw [fieldY_val, wordXYN_toNat]
  omega

@[simp] theorem fieldN_wordXYN (op : Nibble) (x y : Reg) (n : Nibble) : fieldN (wordXYN op x y n) = n := by
  apply BitVec.eq_of_toNat_eq
  rw [fieldN_toNat, wordXYN_toNat]
  omega

/-! ### A word from its fields -/

theorem wordNNN_fields (w : Word) : wordNNN (fieldD1 w) (fieldNNN w) = w := by
  apply BitVec.eq_of_toNat_eq
  rw [wordNNN_toNat, fieldD1_toNat, fieldNNN_toNat]
  omega

theorem wordXNN_fields (w : Word) : wordXNN (fieldD1 w) (fieldX w) (fieldNN w) = w := by
  apply BitVec.eq_of_toNat_eq
  rw [wordXNN_toNat, fieldD1_toNat, fieldX_val, fieldNN_toNat]
  omega

theorem wordXYN_fields (w : Word) : wordXYN (fieldD1 w) (fieldX w) (fieldY w) (fieldN w) = w := by
  apply BitVec.eq_of_toNat_eq
  rw [wordXYN_toNat, fieldD1_toNat, fieldX_val, fieldY_val, fieldN_toNat]
  omega

/-! ### Bytes and words -/

@[simp] theorem wordOfBytes_bytes (w : Word) : wordOfBytes (highByte w) (lowByte w) = w := by
  apply BitVec.eq_of_toNat_eq
  rw [wordOfBytes_toNat]
  simp only [highByte, lowByte, BitVec.extractLsb'_toNat, Nat.shiftRight_eq_div_pow]
  omega

end Sys2Proof
end

