-- ==== Sys2Proof/Laws/State.lean ====
section
/-! SUPPORT. One lemma per field per update of the state, so that no proof unfolds a record update. -/

namespace Sys2Proof.Machine

/-! ### setByte -/

@[simp] theorem State.setByte_pc (s : State) (a : Nat) (u : Byte) :
    (s.setByte a u).pc = s.pc := rfl
@[simp] theorem State.setByte_v (s : State) (a : Nat) (u : Byte) :
    (s.setByte a u).v = s.v := rfl
@[simp] theorem State.setByte_i (s : State) (a : Nat) (u : Byte) :
    (s.setByte a u).i = s.i := rfl
@[simp] theorem State.setByte_sp (s : State) (a : Nat) (u : Byte) :
    (s.setByte a u).sp = s.sp := rfl
@[simp] theorem State.setByte_stack (s : State) (a : Nat) (u : Byte) :
    (s.setByte a u).stack = s.stack := rfl
@[simp] theorem State.setByte_dt (s : State) (a : Nat) (u : Byte) :
    (s.setByte a u).dt = s.dt := rfl
@[simp] theorem State.setByte_st (s : State) (a : Nat) (u : Byte) :
    (s.setByte a u).st = s.st := rfl
@[simp] theorem State.setByte_keys (s : State) (a : Nat) (u : Byte) :
    (s.setByte a u).keys = s.keys := rfl
@[simp] theorem State.setByte_fb (s : State) (a : Nat) (u : Byte) :
    (s.setByte a u).fb = s.fb := rfl
@[simp] theorem State.setByte_mem (s : State) (a : Nat) (u : Byte) :
    (s.setByte a u).mem = Memory.write s.font s.mem a u := rfl
@[simp] theorem State.setByte_fault (s : State) (a : Nat) (u : Byte) :
    (s.setByte a u).fault = s.fault := rfl
@[simp] theorem State.setByte_font (s : State) (a : Nat) (u : Byte) :
    (s.setByte a u).font = s.font := rfl
@[simp] theorem State.setByte_draws (s : State) (a : Nat) (u : Byte) :
    (s.setByte a u).draws = s.draws := rfl
@[simp] theorem State.setByte_schedule (s : State) (a : Nat) (u : Byte) :
    (s.setByte a u).schedule = s.schedule := rfl

/-! ### setReg -/

@[simp] theorem State.setReg_pc (s : State) (x : Reg) (u : Byte) :
    (s.setReg x u).pc = s.pc := rfl
@[simp] theorem State.setReg_v (s : State) (x : Reg) (u : Byte) :
    (s.setReg x u).v = s.v.set x.val u x.isLt := rfl
@[simp] theorem State.setReg_i (s : State) (x : Reg) (u : Byte) :
    (s.setReg x u).i = s.i := rfl
@[simp] theorem State.setReg_sp (s : State) (x : Reg) (u : Byte) :
    (s.setReg x u).sp = s.sp := rfl
@[simp] theorem State.setReg_stack (s : State) (x : Reg) (u : Byte) :
    (s.setReg x u).stack = s.stack := rfl
@[simp] theorem State.setReg_dt (s : State) (x : Reg) (u : Byte) :
    (s.setReg x u).dt = s.dt := rfl
@[simp] theorem State.setReg_st (s : State) (x : Reg) (u : Byte) :
    (s.setReg x u).st = s.st := rfl
@[simp] theorem State.setReg_keys (s : State) (x : Reg) (u : Byte) :
    (s.setReg x u).keys = s.keys := rfl
@[simp] theorem State.setReg_fb (s : State) (x : Reg) (u : Byte) :
    (s.setReg x u).fb = s.fb := rfl
@[simp] theorem State.setReg_mem (s : State) (x : Reg) (u : Byte) :
    (s.setReg x u).mem = s.mem := rfl
@[simp] theorem State.setReg_fault (s : State) (x : Reg) (u : Byte) :
    (s.setReg x u).fault = s.fault := rfl
@[simp] theorem State.setReg_font (s : State) (x : Reg) (u : Byte) :
    (s.setReg x u).font = s.font := rfl
@[simp] theorem State.setReg_draws (s : State) (x : Reg) (u : Byte) :
    (s.setReg x u).draws = s.draws := rfl
@[simp] theorem State.setReg_schedule (s : State) (x : Reg) (u : Byte) :
    (s.setReg x u).schedule = s.schedule := rfl

/-! ### setI -/

@[simp] theorem State.setI_pc (s : State) (w : Word) :
    (s.setI w).pc = s.pc := rfl
@[simp] theorem State.setI_v (s : State) (w : Word) :
    (s.setI w).v = s.v := rfl
@[simp] theorem State.setI_i (s : State) (w : Word) :
    (s.setI w).i = w := rfl
@[simp] theorem State.setI_sp (s : State) (w : Word) :
    (s.setI w).sp = s.sp := rfl
@[simp] theorem State.setI_stack (s : State) (w : Word) :
    (s.setI w).stack = s.stack := rfl
@[simp] theorem State.setI_dt (s : State) (w : Word) :
    (s.setI w).dt = s.dt := rfl
@[simp] theorem State.setI_st (s : State) (w : Word) :
    (s.setI w).st = s.st := rfl
@[simp] theorem State.setI_keys (s : State) (w : Word) :
    (s.setI w).keys = s.keys := rfl
@[simp] theorem State.setI_fb (s : State) (w : Word) :
    (s.setI w).fb = s.fb := rfl
@[simp] theorem State.setI_mem (s : State) (w : Word) :
    (s.setI w).mem = s.mem := rfl
@[simp] theorem State.setI_fault (s : State) (w : Word) :
    (s.setI w).fault = s.fault := rfl
@[simp] theorem State.setI_font (s : State) (w : Word) :
    (s.setI w).font = s.font := rfl
@[simp] theorem State.setI_draws (s : State) (w : Word) :
    (s.setI w).draws = s.draws := rfl
@[simp] theorem State.setI_schedule (s : State) (w : Word) :
    (s.setI w).schedule = s.schedule := rfl

/-! ### setPc -/

@[simp] theorem State.setPc_pc (s : State) (w : Word) :
    (s.setPc w).pc = w := rfl
@[simp] theorem State.setPc_v (s : State) (w : Word) :
    (s.setPc w).v = s.v := rfl
@[simp] theorem State.setPc_i (s : State) (w : Word) :
    (s.setPc w).i = s.i := rfl
@[simp] theorem State.setPc_sp (s : State) (w : Word) :
    (s.setPc w).sp = s.sp := rfl
@[simp] theorem State.setPc_stack (s : State) (w : Word) :
    (s.setPc w).stack = s.stack := rfl
@[simp] theorem State.setPc_dt (s : State) (w : Word) :
    (s.setPc w).dt = s.dt := rfl
@[simp] theorem State.setPc_st (s : State) (w : Word) :
    (s.setPc w).st = s.st := rfl
@[simp] theorem State.setPc_keys (s : State) (w : Word) :
    (s.setPc w).keys = s.keys := rfl
@[simp] theorem State.setPc_fb (s : State) (w : Word) :
    (s.setPc w).fb = s.fb := rfl
@[simp] theorem State.setPc_mem (s : State) (w : Word) :
    (s.setPc w).mem = s.mem := rfl
@[simp] theorem State.setPc_fault (s : State) (w : Word) :
    (s.setPc w).fault = s.fault := rfl
@[simp] theorem State.setPc_font (s : State) (w : Word) :
    (s.setPc w).font = s.font := rfl
@[simp] theorem State.setPc_draws (s : State) (w : Word) :
    (s.setPc w).draws = s.draws := rfl
@[simp] theorem State.setPc_schedule (s : State) (w : Word) :
    (s.setPc w).schedule = s.schedule := rfl

/-! ### advance -/

@[simp] theorem State.advance_pc (s : State) :
    (s.advance).pc = s.pc + 2 := rfl
@[simp] theorem State.advance_v (s : State) :
    (s.advance).v = s.v := rfl
@[simp] theorem State.advance_i (s : State) :
    (s.advance).i = s.i := rfl
@[simp] theorem State.advance_sp (s : State) :
    (s.advance).sp = s.sp := rfl
@[simp] theorem State.advance_stack (s : State) :
    (s.advance).stack = s.stack := rfl
@[simp] theorem State.advance_dt (s : State) :
    (s.advance).dt = s.dt := rfl
@[simp] theorem State.advance_st (s : State) :
    (s.advance).st = s.st := rfl
@[simp] theorem State.advance_keys (s : State) :
    (s.advance).keys = s.keys := rfl
@[simp] theorem State.advance_fb (s : State) :
    (s.advance).fb = s.fb := rfl
@[simp] theorem State.advance_mem (s : State) :
    (s.advance).mem = s.mem := rfl
@[simp] theorem State.advance_fault (s : State) :
    (s.advance).fault = s.fault := rfl
@[simp] theorem State.advance_font (s : State) :
    (s.advance).font = s.font := rfl
@[simp] theorem State.advance_draws (s : State) :
    (s.advance).draws = s.draws := rfl
@[simp] theorem State.advance_schedule (s : State) :
    (s.advance).schedule = s.schedule := rfl

/-! ### setDt -/

@[simp] theorem State.setDt_pc (s : State) (u : Byte) :
    (s.setDt u).pc = s.pc := rfl
@[simp] theorem State.setDt_v (s : State) (u : Byte) :
    (s.setDt u).v = s.v := rfl
@[simp] theorem State.setDt_i (s : State) (u : Byte) :
    (s.setDt u).i = s.i := rfl
@[simp] theorem State.setDt_sp (s : State) (u : Byte) :
    (s.setDt u).sp = s.sp := rfl
@[simp] theorem State.setDt_stack (s : State) (u : Byte) :
    (s.setDt u).stack = s.stack := rfl
@[simp] theorem State.setDt_dt (s : State) (u : Byte) :
    (s.setDt u).dt = u := rfl
@[simp] theorem State.setDt_st (s : State) (u : Byte) :
    (s.setDt u).st = s.st := rfl
@[simp] theorem State.setDt_keys (s : State) (u : Byte) :
    (s.setDt u).keys = s.keys := rfl
@[simp] theorem State.setDt_fb (s : State) (u : Byte) :
    (s.setDt u).fb = s.fb := rfl
@[simp] theorem State.setDt_mem (s : State) (u : Byte) :
    (s.setDt u).mem = s.mem := rfl
@[simp] theorem State.setDt_fault (s : State) (u : Byte) :
    (s.setDt u).fault = s.fault := rfl
@[simp] theorem State.setDt_font (s : State) (u : Byte) :
    (s.setDt u).font = s.font := rfl
@[simp] theorem State.setDt_draws (s : State) (u : Byte) :
    (s.setDt u).draws = s.draws := rfl
@[simp] theorem State.setDt_schedule (s : State) (u : Byte) :
    (s.setDt u).schedule = s.schedule := rfl

/-! ### setSt -/

@[simp] theorem State.setSt_pc (s : State) (u : Byte) :
    (s.setSt u).pc = s.pc := rfl
@[simp] theorem State.setSt_v (s : State) (u : Byte) :
    (s.setSt u).v = s.v := rfl
@[simp] theorem State.setSt_i (s : State) (u : Byte) :
    (s.setSt u).i = s.i := rfl
@[simp] theorem State.setSt_sp (s : State) (u : Byte) :
    (s.setSt u).sp = s.sp := rfl
@[simp] theorem State.setSt_stack (s : State) (u : Byte) :
    (s.setSt u).stack = s.stack := rfl
@[simp] theorem State.setSt_dt (s : State) (u : Byte) :
    (s.setSt u).dt = s.dt := rfl
@[simp] theorem State.setSt_st (s : State) (u : Byte) :
    (s.setSt u).st = u := rfl
@[simp] theorem State.setSt_keys (s : State) (u : Byte) :
    (s.setSt u).keys = s.keys := rfl
@[simp] theorem State.setSt_fb (s : State) (u : Byte) :
    (s.setSt u).fb = s.fb := rfl
@[simp] theorem State.setSt_mem (s : State) (u : Byte) :
    (s.setSt u).mem = s.mem := rfl
@[simp] theorem State.setSt_fault (s : State) (u : Byte) :
    (s.setSt u).fault = s.fault := rfl
@[simp] theorem State.setSt_font (s : State) (u : Byte) :
    (s.setSt u).font = s.font := rfl
@[simp] theorem State.setSt_draws (s : State) (u : Byte) :
    (s.setSt u).draws = s.draws := rfl
@[simp] theorem State.setSt_schedule (s : State) (u : Byte) :
    (s.setSt u).schedule = s.schedule := rfl

/-! ### setFlag -/

@[simp] theorem State.setFlag_pc (s : State) (c : Bool) :
    (s.setFlag c).pc = s.pc := rfl
@[simp] theorem State.setFlag_i (s : State) (c : Bool) :
    (s.setFlag c).i = s.i := rfl
@[simp] theorem State.setFlag_sp (s : State) (c : Bool) :
    (s.setFlag c).sp = s.sp := rfl
@[simp] theorem State.setFlag_stack (s : State) (c : Bool) :
    (s.setFlag c).stack = s.stack := rfl
@[simp] theorem State.setFlag_dt (s : State) (c : Bool) :
    (s.setFlag c).dt = s.dt := rfl
@[simp] theorem State.setFlag_st (s : State) (c : Bool) :
    (s.setFlag c).st = s.st := rfl
@[simp] theorem State.setFlag_keys (s : State) (c : Bool) :
    (s.setFlag c).keys = s.keys := rfl
@[simp] theorem State.setFlag_fb (s : State) (c : Bool) :
    (s.setFlag c).fb = s.fb := rfl
@[simp] theorem State.setFlag_mem (s : State) (c : Bool) :
    (s.setFlag c).mem = s.mem := rfl
@[simp] theorem State.setFlag_fault (s : State) (c : Bool) :
    (s.setFlag c).fault = s.fault := rfl
@[simp] theorem State.setFlag_font (s : State) (c : Bool) :
    (s.setFlag c).font = s.font := rfl
@[simp] theorem State.setFlag_draws (s : State) (c : Bool) :
    (s.setFlag c).draws = s.draws := rfl
@[simp] theorem State.setFlag_schedule (s : State) (c : Bool) :
    (s.setFlag c).schedule = s.schedule := rfl

/-! ### setResultFlag -/

@[simp] theorem State.setResultFlag_pc (s : State) (x : Reg) (u : Byte) (c : Bool) :
    (s.setResultFlag x u c).pc = s.pc := rfl
@[simp] theorem State.setResultFlag_i (s : State) (x : Reg) (u : Byte) (c : Bool) :
    (s.setResultFlag x u c).i = s.i := rfl
@[simp] theorem State.setResultFlag_sp (s : State) (x : Reg) (u : Byte) (c : Bool) :
    (s.setResultFlag x u c).sp = s.sp := rfl
@[simp] theorem State.setResultFlag_stack (s : State) (x : Reg) (u : Byte) (c : Bool) :
    (s.setResultFlag x u c).stack = s.stack := rfl
@[simp] theorem State.setResultFlag_dt (s : State) (x : Reg) (u : Byte) (c : Bool) :
    (s.setResultFlag x u c).dt = s.dt := rfl
@[simp] theorem State.setResultFlag_st (s : State) (x : Reg) (u : Byte) (c : Bool) :
    (s.setResultFlag x u c).st = s.st := rfl
@[simp] theorem State.setResultFlag_keys (s : State) (x : Reg) (u : Byte) (c : Bool) :
    (s.setResultFlag x u c).keys = s.keys := rfl
@[simp] theorem State.setResultFlag_fb (s : State) (x : Reg) (u : Byte) (c : Bool) :
    (s.setResultFlag x u c).fb = s.fb := rfl
@[simp] theorem State.setResultFlag_mem (s : State) (x : Reg) (u : Byte) (c : Bool) :
    (s.setResultFlag x u c).mem = s.mem := rfl
@[simp] theorem State.setResultFlag_fault (s : State) (x : Reg) (u : Byte) (c : Bool) :
    (s.setResultFlag x u c).fault = s.fault := rfl
@[simp] theorem State.setResultFlag_font (s : State) (x : Reg) (u : Byte) (c : Bool) :
    (s.setResultFlag x u c).font = s.font := rfl
@[simp] theorem State.setResultFlag_draws (s : State) (x : Reg) (u : Byte) (c : Bool) :
    (s.setResultFlag x u c).draws = s.draws := rfl
@[simp] theorem State.setResultFlag_schedule (s : State) (x : Reg) (u : Byte) (c : Bool) :
    (s.setResultFlag x u c).schedule = s.schedule := rfl

/-! ### drawByte -/

@[simp] theorem State.drawByte_pc (s : State) :
    (s.drawByte.2).pc = s.pc := rfl
@[simp] theorem State.drawByte_v (s : State) :
    (s.drawByte.2).v = s.v := rfl
@[simp] theorem State.drawByte_i (s : State) :
    (s.drawByte.2).i = s.i := rfl
@[simp] theorem State.drawByte_sp (s : State) :
    (s.drawByte.2).sp = s.sp := rfl
@[simp] theorem State.drawByte_stack (s : State) :
    (s.drawByte.2).stack = s.stack := rfl
@[simp] theorem State.drawByte_dt (s : State) :
    (s.drawByte.2).dt = s.dt := rfl
@[simp] theorem State.drawByte_st (s : State) :
    (s.drawByte.2).st = s.st := rfl
@[simp] theorem State.drawByte_keys (s : State) :
    (s.drawByte.2).keys = s.keys := rfl
@[simp] theorem State.drawByte_fb (s : State) :
    (s.drawByte.2).fb = s.fb := rfl
@[simp] theorem State.drawByte_mem (s : State) :
    (s.drawByte.2).mem = s.mem := rfl
@[simp] theorem State.drawByte_fault (s : State) :
    (s.drawByte.2).fault = s.fault := rfl
@[simp] theorem State.drawByte_font (s : State) :
    (s.drawByte.2).font = s.font := rfl
@[simp] theorem State.drawByte_draws (s : State) :
    (s.drawByte.2).draws = s.draws + 1 := rfl
@[simp] theorem State.drawByte_schedule (s : State) :
    (s.drawByte.2).schedule = s.schedule := rfl

/-! ### takeFault -/

@[simp] theorem State.takeFault_pc (s : State) (c : Fault) (w : Word) :
    (s.takeFault c w).pc = s.pc := rfl
@[simp] theorem State.takeFault_v (s : State) (c : Fault) (w : Word) :
    (s.takeFault c w).v = s.v := rfl
@[simp] theorem State.takeFault_i (s : State) (c : Fault) (w : Word) :
    (s.takeFault c w).i = s.i := rfl
@[simp] theorem State.takeFault_sp (s : State) (c : Fault) (w : Word) :
    (s.takeFault c w).sp = s.sp := rfl
@[simp] theorem State.takeFault_stack (s : State) (c : Fault) (w : Word) :
    (s.takeFault c w).stack = s.stack := rfl
@[simp] theorem State.takeFault_dt (s : State) (c : Fault) (w : Word) :
    (s.takeFault c w).dt = s.dt := rfl
@[simp] theorem State.takeFault_st (s : State) (c : Fault) (w : Word) :
    (s.takeFault c w).st = s.st := rfl
@[simp] theorem State.takeFault_keys (s : State) (c : Fault) (w : Word) :
    (s.takeFault c w).keys = s.keys := rfl
@[simp] theorem State.takeFault_fb (s : State) (c : Fault) (w : Word) :
    (s.takeFault c w).fb = s.fb := rfl
@[simp] theorem State.takeFault_mem (s : State) (c : Fault) (w : Word) :
    (s.takeFault c w).mem = s.mem := rfl
@[simp] theorem State.takeFault_fault (s : State) (c : Fault) (w : Word) :
    (s.takeFault c w).fault = some { cause := c, pc0 := s.pc, word := w } := rfl
@[simp] theorem State.takeFault_font (s : State) (c : Fault) (w : Word) :
    (s.takeFault c w).font = s.font := rfl
@[simp] theorem State.takeFault_draws (s : State) (c : Fault) (w : Word) :
    (s.takeFault c w).draws = s.draws := rfl
@[simp] theorem State.takeFault_schedule (s : State) (c : Fault) (w : Word) :
    (s.takeFault c w).schedule = s.schedule := rfl

/-! ### pop -/

@[simp] theorem State.pop_pc (s : State) :
    (s.pop.2).pc = s.pc := rfl
@[simp] theorem State.pop_v (s : State) :
    (s.pop.2).v = s.v := rfl
@[simp] theorem State.pop_i (s : State) :
    (s.pop.2).i = s.i := rfl
@[simp] theorem State.pop_stack (s : State) :
    (s.pop.2).stack = s.stack := rfl
@[simp] theorem State.pop_dt (s : State) :
    (s.pop.2).dt = s.dt := rfl
@[simp] theorem State.pop_st (s : State) :
    (s.pop.2).st = s.st := rfl
@[simp] theorem State.pop_keys (s : State) :
    (s.pop.2).keys = s.keys := rfl
@[simp] theorem State.pop_fb (s : State) :
    (s.pop.2).fb = s.fb := rfl
@[simp] theorem State.pop_mem (s : State) :
    (s.pop.2).mem = s.mem := rfl
@[simp] theorem State.pop_fault (s : State) :
    (s.pop.2).fault = s.fault := rfl
@[simp] theorem State.pop_font (s : State) :
    (s.pop.2).font = s.font := rfl
@[simp] theorem State.pop_draws (s : State) :
    (s.pop.2).draws = s.draws := rfl
@[simp] theorem State.pop_schedule (s : State) :
    (s.pop.2).schedule = s.schedule := rfl

/-! ### tick -/

@[simp] theorem State.tick_pc (s : State) :
    (s.tick).pc = s.pc := rfl
@[simp] theorem State.tick_v (s : State) :
    (s.tick).v = s.v := rfl
@[simp] theorem State.tick_i (s : State) :
    (s.tick).i = s.i := rfl
@[simp] theorem State.tick_sp (s : State) :
    (s.tick).sp = s.sp := rfl
@[simp] theorem State.tick_stack (s : State) :
    (s.tick).stack = s.stack := rfl
@[simp] theorem State.tick_dt (s : State) :
    (s.tick).dt = countDown s.dt := rfl
@[simp] theorem State.tick_st (s : State) :
    (s.tick).st = countDown s.st := rfl
@[simp] theorem State.tick_keys (s : State) :
    (s.tick).keys = s.keys := rfl
@[simp] theorem State.tick_fb (s : State) :
    (s.tick).fb = s.fb := rfl
@[simp] theorem State.tick_mem (s : State) :
    (s.tick).mem = s.mem := rfl
@[simp] theorem State.tick_fault (s : State) :
    (s.tick).fault = s.fault := rfl
@[simp] theorem State.tick_font (s : State) :
    (s.tick).font = s.font := rfl
@[simp] theorem State.tick_draws (s : State) :
    (s.tick).draws = s.draws := rfl
@[simp] theorem State.tick_schedule (s : State) :
    (s.tick).schedule = s.schedule := rfl

/-! ### setKey -/

@[simp] theorem State.setKey_pc (s : State) (k : Reg) (b : Bool) :
    (s.setKey k b).pc = s.pc := rfl
@[simp] theorem State.setKey_v (s : State) (k : Reg) (b : Bool) :
    (s.setKey k b).v = s.v := rfl
@[simp] theorem State.setKey_i (s : State) (k : Reg) (b : Bool) :
    (s.setKey k b).i = s.i := rfl
@[simp] theorem State.setKey_sp (s : State) (k : Reg) (b : Bool) :
    (s.setKey k b).sp = s.sp := rfl
@[simp] theorem State.setKey_stack (s : State) (k : Reg) (b : Bool) :
    (s.setKey k b).stack = s.stack := rfl
@[simp] theorem State.setKey_dt (s : State) (k : Reg) (b : Bool) :
    (s.setKey k b).dt = s.dt := rfl
@[simp] theorem State.setKey_st (s : State) (k : Reg) (b : Bool) :
    (s.setKey k b).st = s.st := rfl
@[simp] theorem State.setKey_keys (s : State) (k : Reg) (b : Bool) :
    (s.setKey k b).keys = s.keys.set k.val b k.isLt := rfl
@[simp] theorem State.setKey_fb (s : State) (k : Reg) (b : Bool) :
    (s.setKey k b).fb = s.fb := rfl
@[simp] theorem State.setKey_mem (s : State) (k : Reg) (b : Bool) :
    (s.setKey k b).mem = s.mem := rfl
@[simp] theorem State.setKey_fault (s : State) (k : Reg) (b : Bool) :
    (s.setKey k b).fault = s.fault := rfl
@[simp] theorem State.setKey_font (s : State) (k : Reg) (b : Bool) :
    (s.setKey k b).font = s.font := rfl
@[simp] theorem State.setKey_draws (s : State) (k : Reg) (b : Bool) :
    (s.setKey k b).draws = s.draws := rfl
@[simp] theorem State.setKey_schedule (s : State) (k : Reg) (b : Bool) :
    (s.setKey k b).schedule = s.schedule := rfl

/-! ### takeEvent -/

@[simp] theorem State.takeEvent_pc (s : State) :
    (s.takeEvent).pc = s.pc := rfl
@[simp] theorem State.takeEvent_v (s : State) :
    (s.takeEvent).v = s.v := rfl
@[simp] theorem State.takeEvent_i (s : State) :
    (s.takeEvent).i = s.i := rfl
@[simp] theorem State.takeEvent_sp (s : State) :
    (s.takeEvent).sp = s.sp := rfl
@[simp] theorem State.takeEvent_stack (s : State) :
    (s.takeEvent).stack = s.stack := rfl
@[simp] theorem State.takeEvent_dt (s : State) :
    (s.takeEvent).dt = s.dt := rfl
@[simp] theorem State.takeEvent_st (s : State) :
    (s.takeEvent).st = s.st := rfl
@[simp] theorem State.takeEvent_keys (s : State) :
    (s.takeEvent).keys = s.keys := rfl
@[simp] theorem State.takeEvent_fb (s : State) :
    (s.takeEvent).fb = s.fb := rfl
@[simp] theorem State.takeEvent_mem (s : State) :
    (s.takeEvent).mem = s.mem := rfl
@[simp] theorem State.takeEvent_fault (s : State) :
    (s.takeEvent).fault = s.fault := rfl
@[simp] theorem State.takeEvent_font (s : State) :
    (s.takeEvent).font = s.font := rfl
@[simp] theorem State.takeEvent_draws (s : State) :
    (s.takeEvent).draws = s.draws := rfl
@[simp] theorem State.takeEvent_schedule (s : State) :
    (s.takeEvent).schedule = s.schedule.tail := rfl

/-! ### resetCore -/

@[simp] theorem State.resetCore_pc (s : State) :
    (s.resetCore).pc = State.reset.pc := rfl
@[simp] theorem State.resetCore_v (s : State) :
    (s.resetCore).v = State.reset.v := rfl
@[simp] theorem State.resetCore_i (s : State) :
    (s.resetCore).i = State.reset.i := rfl
@[simp] theorem State.resetCore_sp (s : State) :
    (s.resetCore).sp = State.reset.sp := rfl
@[simp] theorem State.resetCore_stack (s : State) :
    (s.resetCore).stack = State.reset.stack := rfl
@[simp] theorem State.resetCore_dt (s : State) :
    (s.resetCore).dt = State.reset.dt := rfl
@[simp] theorem State.resetCore_st (s : State) :
    (s.resetCore).st = State.reset.st := rfl
@[simp] theorem State.resetCore_keys (s : State) :
    (s.resetCore).keys = State.reset.keys := rfl
@[simp] theorem State.resetCore_fb (s : State) :
    (s.resetCore).fb = State.reset.fb := rfl
@[simp] theorem State.resetCore_mem (s : State) :
    (s.resetCore).mem = State.reset.mem := rfl
@[simp] theorem State.resetCore_fault (s : State) :
    (s.resetCore).fault = State.reset.fault := rfl
@[simp] theorem State.resetCore_font (s : State) :
    (s.resetCore).font = s.font := rfl
@[simp] theorem State.resetCore_draws (s : State) :
    (s.resetCore).draws = s.draws := rfl
@[simp] theorem State.resetCore_schedule (s : State) :
    (s.resetCore).schedule = s.schedule := rfl

/-! ### skipIf -/

@[simp] theorem State.skipIf_v (s : State) (c : Bool) :
    (s.skipIf c).v = s.v := by cases c <;> rfl
@[simp] theorem State.skipIf_i (s : State) (c : Bool) :
    (s.skipIf c).i = s.i := by cases c <;> rfl
@[simp] theorem State.skipIf_sp (s : State) (c : Bool) :
    (s.skipIf c).sp = s.sp := by cases c <;> rfl
@[simp] theorem State.skipIf_stack (s : State) (c : Bool) :
    (s.skipIf c).stack = s.stack := by cases c <;> rfl
@[simp] theorem State.skipIf_dt (s : State) (c : Bool) :
    (s.skipIf c).dt = s.dt := by cases c <;> rfl
@[simp] theorem State.skipIf_st (s : State) (c : Bool) :
    (s.skipIf c).st = s.st := by cases c <;> rfl
@[simp] theorem State.skipIf_keys (s : State) (c : Bool) :
    (s.skipIf c).keys = s.keys := by cases c <;> rfl
@[simp] theorem State.skipIf_fb (s : State) (c : Bool) :
    (s.skipIf c).fb = s.fb := by cases c <;> rfl
@[simp] theorem State.skipIf_mem (s : State) (c : Bool) :
    (s.skipIf c).mem = s.mem := by cases c <;> rfl
@[simp] theorem State.skipIf_fault (s : State) (c : Bool) :
    (s.skipIf c).fault = s.fault := by cases c <;> rfl
@[simp] theorem State.skipIf_font (s : State) (c : Bool) :
    (s.skipIf c).font = s.font := by cases c <;> rfl
@[simp] theorem State.skipIf_draws (s : State) (c : Bool) :
    (s.skipIf c).draws = s.draws := by cases c <;> rfl
@[simp] theorem State.skipIf_schedule (s : State) (c : Bool) :
    (s.skipIf c).schedule = s.schedule := by cases c <;> rfl

/-! ### push -/

@[simp] theorem State.push_pc (s : State) (w : Word) :
    (s.push w).pc = s.pc := by unfold State.push; split <;> rfl
@[simp] theorem State.push_v (s : State) (w : Word) :
    (s.push w).v = s.v := by unfold State.push; split <;> rfl
@[simp] theorem State.push_i (s : State) (w : Word) :
    (s.push w).i = s.i := by unfold State.push; split <;> rfl
@[simp] theorem State.push_dt (s : State) (w : Word) :
    (s.push w).dt = s.dt := by unfold State.push; split <;> rfl
@[simp] theorem State.push_st (s : State) (w : Word) :
    (s.push w).st = s.st := by unfold State.push; split <;> rfl
@[simp] theorem State.push_keys (s : State) (w : Word) :
    (s.push w).keys = s.keys := by unfold State.push; split <;> rfl
@[simp] theorem State.push_fb (s : State) (w : Word) :
    (s.push w).fb = s.fb := by unfold State.push; split <;> rfl
@[simp] theorem State.push_mem (s : State) (w : Word) :
    (s.push w).mem = s.mem := by unfold State.push; split <;> rfl
@[simp] theorem State.push_fault (s : State) (w : Word) :
    (s.push w).fault = s.fault := by unfold State.push; split <;> rfl
@[simp] theorem State.push_font (s : State) (w : Word) :
    (s.push w).font = s.font := by unfold State.push; split <;> rfl
@[simp] theorem State.push_draws (s : State) (w : Word) :
    (s.push w).draws = s.draws := by unfold State.push; split <;> rfl
@[simp] theorem State.push_schedule (s : State) (w : Word) :
    (s.push w).schedule = s.schedule := by unfold State.push; split <;> rfl

@[simp] theorem State.skipIf_pc (s : State) (c : Bool) :
    (s.skipIf c).pc = if c then s.pc + 2 + 2 else s.pc + 2 := by cases c <;> rfl
@[simp] theorem State.pop_sp (s : State) : s.pop.2.sp.val = s.sp.val - 1 := rfl
theorem State.pop_fst (s : State) : s.pop.1 = s.stack[s.sp.val - 1]'(by omega) := rfl
theorem State.push_sp (s : State) (w : Word) (h : s.sp.val < 16) : (s.push w).sp.val = s.sp.val + 1 := by
  simp [State.push, h]
theorem State.push_stack (s : State) (w : Word) (h : s.sp.val < 16) :
    (s.push w).stack = s.stack.set s.sp.val w h := by
  simp [State.push, h]

/-! ### Bytes stored and registers loaded in sequence: only memory, only V -/

/-- Storing bytes changes memory alone. -/
theorem State.storeBytes_eq (bs : List Byte) : ∀ (s : State) (a : Nat),
    s.storeBytes a bs = { s with mem := (s.storeBytes a bs).mem } := by
  induction bs with
  | nil => intro s a; rfl
  | cons u rest ih => intro s a; rw [State.storeBytes, ih]; rfl

/-- Loading registers changes V alone. -/
theorem State.setRegs_eq (bs : List Byte) : ∀ (s : State) (k : Nat),
    s.setRegs k bs = { s with v := (s.setRegs k bs).v } := by
  induction bs with
  | nil => intro s k; rfl
  | cons u rest ih => intro s k; rw [State.setRegs, ih]; rfl

@[simp] theorem State.storeBytes_pc (s : State) (a : Nat) (bs : List Byte) :
    (s.storeBytes a bs).pc = s.pc := by rw [State.storeBytes_eq]
@[simp] theorem State.storeBytes_v (s : State) (a : Nat) (bs : List Byte) :
    (s.storeBytes a bs).v = s.v := by rw [State.storeBytes_eq]
@[simp] theorem State.storeBytes_i (s : State) (a : Nat) (bs : List Byte) :
    (s.storeBytes a bs).i = s.i := by rw [State.storeBytes_eq]
@[simp] theorem State.storeBytes_sp (s : State) (a : Nat) (bs : List Byte) :
    (s.storeBytes a bs).sp = s.sp := by rw [State.storeBytes_eq]
@[simp] theorem State.storeBytes_stack (s : State) (a : Nat) (bs : List Byte) :
    (s.storeBytes a bs).stack = s.stack := by rw [State.storeBytes_eq]
@[simp] theorem State.storeBytes_dt (s : State) (a : Nat) (bs : List Byte) :
    (s.storeBytes a bs).dt = s.dt := by rw [State.storeBytes_eq]
@[simp] theorem State.storeBytes_st (s : State) (a : Nat) (bs : List Byte) :
    (s.storeBytes a bs).st = s.st := by rw [State.storeBytes_eq]
@[simp] theorem State.storeBytes_keys (s : State) (a : Nat) (bs : List Byte) :
    (s.storeBytes a bs).keys = s.keys := by rw [State.storeBytes_eq]
@[simp] theorem State.storeBytes_fb (s : State) (a : Nat) (bs : List Byte) :
    (s.storeBytes a bs).fb = s.fb := by rw [State.storeBytes_eq]
@[simp] theorem State.storeBytes_fault (s : State) (a : Nat) (bs : List Byte) :
    (s.storeBytes a bs).fault = s.fault := by rw [State.storeBytes_eq]
@[simp] theorem State.storeBytes_font (s : State) (a : Nat) (bs : List Byte) :
    (s.storeBytes a bs).font = s.font := by rw [State.storeBytes_eq]
@[simp] theorem State.storeBytes_draws (s : State) (a : Nat) (bs : List Byte) :
    (s.storeBytes a bs).draws = s.draws := by rw [State.storeBytes_eq]
@[simp] theorem State.storeBytes_schedule (s : State) (a : Nat) (bs : List Byte) :
    (s.storeBytes a bs).schedule = s.schedule := by rw [State.storeBytes_eq]

@[simp] theorem State.setRegs_pc (s : State) (k : Nat) (bs : List Byte) :
    (s.setRegs k bs).pc = s.pc := by rw [State.setRegs_eq]
@[simp] theorem State.setRegs_i (s : State) (k : Nat) (bs : List Byte) :
    (s.setRegs k bs).i = s.i := by rw [State.setRegs_eq]
@[simp] theorem State.setRegs_sp (s : State) (k : Nat) (bs : List Byte) :
    (s.setRegs k bs).sp = s.sp := by rw [State.setRegs_eq]
@[simp] theorem State.setRegs_stack (s : State) (k : Nat) (bs : List Byte) :
    (s.setRegs k bs).stack = s.stack := by rw [State.setRegs_eq]
@[simp] theorem State.setRegs_dt (s : State) (k : Nat) (bs : List Byte) :
    (s.setRegs k bs).dt = s.dt := by rw [State.setRegs_eq]
@[simp] theorem State.setRegs_st (s : State) (k : Nat) (bs : List Byte) :
    (s.setRegs k bs).st = s.st := by rw [State.setRegs_eq]
@[simp] theorem State.setRegs_keys (s : State) (k : Nat) (bs : List Byte) :
    (s.setRegs k bs).keys = s.keys := by rw [State.setRegs_eq]
@[simp] theorem State.setRegs_fb (s : State) (k : Nat) (bs : List Byte) :
    (s.setRegs k bs).fb = s.fb := by rw [State.setRegs_eq]
@[simp] theorem State.setRegs_mem (s : State) (k : Nat) (bs : List Byte) :
    (s.setRegs k bs).mem = s.mem := by rw [State.setRegs_eq]
@[simp] theorem State.setRegs_fault (s : State) (k : Nat) (bs : List Byte) :
    (s.setRegs k bs).fault = s.fault := by rw [State.setRegs_eq]
@[simp] theorem State.setRegs_font (s : State) (k : Nat) (bs : List Byte) :
    (s.setRegs k bs).font = s.font := by rw [State.setRegs_eq]
@[simp] theorem State.setRegs_draws (s : State) (k : Nat) (bs : List Byte) :
    (s.setRegs k bs).draws = s.draws := by rw [State.setRegs_eq]
@[simp] theorem State.setRegs_schedule (s : State) (k : Nat) (bs : List Byte) :
    (s.setRegs k bs).schedule = s.schedule := by rw [State.setRegs_eq]

end Sys2Proof.Machine
end

