-- ==== Sys2Proof/Laws/Memory.lean ====
section
/-! SUPPORT. The laws of memory: what a read gives after a write, that every operation keeps the canonical form, and
the reads and writes of several bytes in a row. The read laws hold of every list, canonical or not. -/

namespace Sys2Proof.Machine

/-! ### One cell -/

theorem Memory.read_erase (font : Font) (m : Memory) (a b : Nat) :
    Memory.read font (Memory.erase m a) b =
      if b = a then Memory.unlisted font a else Memory.read font m b := by
  induction m with
  | nil => simp only [Memory.erase, List.filter_nil, Memory.read]; split <;> simp_all
  | cons c rest ih =>
    obtain ⟨d, u⟩ := c
    unfold Memory.erase at ih ⊢
    by_cases hd : d = a
    · subst hd
      simp only [List.filter_cons, bne_self_eq_false, Bool.false_eq_true, if_false, ih, Memory.read]
      split <;> simp_all
    · have : (d != a) = true := by simpa using hd
      simp only [List.filter_cons, this, if_true, Memory.read, ih]
      split <;> split <;> simp_all

theorem Memory.read_insert (font : Font) (m : Memory) (a b : Nat) (u : Byte) (h : ∀ c ∈ m, c.1 ≠ a) :
    Memory.read font (Memory.insert a u m) b = if b = a then u else Memory.read font m b := by
  induction m with
  | nil => simp [Memory.insert, Memory.read]
  | cons c rest ih =>
    obtain ⟨d, w⟩ := c
    have hd : d ≠ a := h (d, w) (by simp)
    unfold Memory.insert
    split
    · simp only [Memory.read]
    · simp only [Memory.read, ih fun c hc => h c (by simp [hc])]
      split <;> split <;> simp_all

theorem Memory.ne_of_mem_erase {m : Memory} {a : Nat} {c : Host.Cell} (h : c ∈ Memory.erase m a) : c.1 ≠ a := by
  simpa using (List.mem_filter.1 h).2

/-- A byte written is read back, and every other address reads as before (R54). -/
theorem Memory.read_write (font : Font) (m : Memory) (a b : Nat) (u : Byte) :
    Memory.read font (Memory.write font m a u) b = if b = a then u else Memory.read font m b := by
  unfold Memory.write
  split
  next hu => rw [Memory.read_erase, ← hu]
  next =>
    rw [Memory.read_insert font _ a b u fun c hc => Memory.ne_of_mem_erase hc, Memory.read_erase]
    split <;> rfl

/-! ### The canonical form -/

theorem Memory.wf_nil (font : Font) : Memory.wf font [] := by simp [Memory.wf]

theorem Memory.wf_erase {font : Font} {m : Memory} (h : Memory.wf font m) (a : Nat) :
    Memory.wf font (Memory.erase m a) :=
  ⟨h.1.filter _, fun c hc => h.2 c (List.mem_filter.1 hc).1⟩

theorem Memory.mem_insert {m : Memory} {a : Nat} {u : Byte} {c : Host.Cell} :
    c ∈ Memory.insert a u m ↔ c = (a, u) ∨ c ∈ m := by
  induction m with
  | nil => simp [Memory.insert]
  | cons d rest ih =>
    obtain ⟨b, w⟩ := d
    unfold Memory.insert
    split
    · simp
    · simp [ih, or_left_comm]

theorem Memory.wf_insert {font : Font} {m : Memory} (h : Memory.wf font m) {a : Nat} {u : Byte}
    (hne : ∀ c ∈ m, c.1 ≠ a) (ha : a < 4096) (hu : u ≠ Memory.unlisted font a) :
    Memory.wf font (Memory.insert a u m) := by
  refine ⟨?_, fun c hc => ?_⟩
  · clear ha hu
    induction m with
    | nil => simp [Memory.insert]
    | cons d rest ih =>
      obtain ⟨b, w⟩ := d
      have hb : b ≠ a := hne (b, w) (by simp)
      have hp := List.pairwise_cons.1 h.1
      unfold Memory.insert
      split
      next hlt =>
        refine List.pairwise_cons.2 ⟨fun c hc => ?_, h.1⟩
        rcases List.mem_cons.1 hc with rfl | hc
        · exact hlt
        · exact Nat.lt_trans hlt (hp.1 c hc)
      next hge =>
        refine List.pairwise_cons.2 ⟨fun c hc => ?_, ih ⟨hp.2, fun c hc => h.2 c (by simp [hc])⟩
          fun c hc => hne c (by simp [hc])⟩
        rcases Memory.mem_insert.1 hc with rfl | hc
        · show b < a
          omega
        · exact hp.1 c hc
  · rcases Memory.mem_insert.1 hc with rfl | hc
    · exact ⟨ha, hu⟩
    · exact h.2 c hc

/-- A write to an address that exists keeps the canonical form. -/
theorem Memory.wf_write {font : Font} {m : Memory} (h : Memory.wf font m) {a : Nat} (ha : a < 4096) (u : Byte) :
    Memory.wf font (Memory.write font m a u) := by
  unfold Memory.write
  split
  next => exact Memory.wf_erase h a
  next hu => exact Memory.wf_insert (Memory.wf_erase h a) (fun c hc => Memory.ne_of_mem_erase hc) ha hu

/-- Reset's memory has the canonical form. -/
theorem State.reset_mem_wf : Memory.wf State.reset.font State.reset.mem := Memory.wf_nil _

/-! ### Bytes of the state -/

theorem State.byteAt_congr {s t : State} (hf : t.font = s.font) (hm : t.mem = s.mem) (a : Nat) :
    t.byteAt a = s.byteAt a := by
  rw [State.byteAt, State.byteAt, hf, hm]

theorem State.byteAt_setByte (s : State) (a b : Nat) (u : Byte) :
    (s.setByte a u).byteAt b = if b = a then u else s.byteAt b :=
  Memory.read_write _ _ _ _ _

/-- After storing bytes from `a` upward, the bytes stored are read there and every other address reads as before. -/
theorem State.byteAt_storeBytes (bs : List Byte) : ∀ (s : State) (a b : Nat),
    (s.storeBytes a bs).byteAt b =
      if h : a ≤ b ∧ b < a + bs.length then bs[b - a]'(by omega) else s.byteAt b := by
  induction bs with
  | nil => intro s a b; rw [dif_neg (by simp only [List.length_nil]; omega)]; rfl
  | cons u rest ih =>
    intro s a b
    rw [State.storeBytes, ih, State.byteAt_setByte]
    by_cases hb : b = a
    · subst hb
      rw [dif_neg (by omega), dif_pos (by simp only [List.length_cons]; omega)]
      simp
    · by_cases hr : a + 1 ≤ b ∧ b < a + 1 + rest.length
      · rw [dif_pos hr, dif_pos (by simp only [List.length_cons]; omega)]
        rw [List.getElem_cons, dif_neg (by omega)]
        congr 1
      · rw [dif_neg hr, dif_neg (by simp only [List.length_cons]; omega), if_neg hb]

theorem State.byteAt_storeBytes_outside {s : State} {a b : Nat} {bs : List Byte}
    (h : b < a ∨ a + bs.length ≤ b) : (s.storeBytes a bs).byteAt b = s.byteAt b := by
  rw [State.byteAt_storeBytes, dif_neg (by omega)]

theorem State.byteAt_storeBytes_inside {s : State} {a k : Nat} {bs : List Byte} (h : k < bs.length) :
    (s.storeBytes a bs).byteAt (a + k) = bs[k] := by
  rw [State.byteAt_storeBytes, dif_pos (by omega)]
  congr 1
  omega

/-- Storing inside the 4096 bytes keeps the canonical form. -/
theorem State.storeBytes_wf (bs : List Byte) : ∀ (s : State) (a : Nat), Memory.wf s.font s.mem →
    a + bs.length ≤ 4096 → Memory.wf s.font (s.storeBytes a bs).mem := by
  induction bs with
  | nil => intro s a h _; exact h
  | cons u rest ih =>
    intro s a h hb
    simp only [List.length_cons] at hb
    exact ih (s.setByte a u) (a + 1) (Memory.wf_write h (by omega) u) (by omega)

@[simp] theorem State.length_loadBytes (s : State) (a n : Nat) : (s.loadBytes a n).length = n := by
  simp [State.loadBytes]

@[simp] theorem State.getElem_loadBytes (s : State) (a n k : Nat) (h : k < (s.loadBytes a n).length) :
    (s.loadBytes a n)[k] = s.byteAt (a + k) := by
  simp [State.loadBytes]

theorem State.loadBytes_congr {s t : State} (h : ∀ a, t.byteAt a = s.byteAt a) (a n : Nat) :
    t.loadBytes a n = s.loadBytes a n := by
  simp [State.loadBytes, h]

end Sys2Proof.Machine
end

