-- ==== Sys2Proof/Laws/Registers.lean ====
section
/-! SUPPORT. What one register reads after each operation that writes registers. -/

namespace Sys2Proof.Machine

theorem State.reg_congr {s t : State} (h : t.v = s.v) (r : Reg) : t.reg r = s.reg r := by
  rw [State.reg, State.reg, h]

/-- A register written is read back; every other register reads as before (R20: none is hardwired). -/
theorem State.reg_setReg (s : State) (x r : Reg) (u : Byte) :
    (s.setReg x u).reg r = if r = x then u else s.reg r := by
  unfold State.reg State.setReg
  by_cases h : r = x
  · subst h; simp
  · have : x.val ≠ r.val := fun e => h (Fin.ext e.symm)
    simp [h, Vector.getElem_set_ne, this]

theorem State.reg_setFlag (s : State) (c : Bool) (r : Reg) :
    (s.setFlag c).reg r = if r = 15 then flagByte c else s.reg r := State.reg_setReg ..

/-- The flag, written last, stands in VF even where VF is the destination (R131). -/
theorem State.reg_setResultFlag (s : State) (x r : Reg) (u : Byte) (c : Bool) :
    (s.setResultFlag x u c).reg r = if r = 15 then flagByte c else if r = x then u else s.reg r := by
  rw [State.setResultFlag, State.reg_setFlag, State.reg_setReg]

@[simp] theorem State.reg_advance (s : State) (r : Reg) : s.advance.reg r = s.reg r := rfl

/-- After loading bytes into V[k] upward, those registers hold the bytes and every other reads as before. -/
theorem State.reg_setRegs (bs : List Byte) : ∀ (s : State) (k : Nat) (r : Reg), k + bs.length ≤ 16 →
    (s.setRegs k bs).reg r =
      if h : k ≤ r.val ∧ r.val < k + bs.length then bs[r.val - k]'(by omega) else s.reg r := by
  induction bs with
  | nil => intro s k r _; rw [dif_neg (by simp only [List.length_nil]; omega)]; rfl
  | cons u rest ih =>
    intro s k r hk
    simp only [List.length_cons] at hk
    rw [State.setRegs, ih _ _ _ (by omega), State.reg_setReg]
    have hk16 : (Fin.ofNat 16 k).val = k := Nat.mod_eq_of_lt (by omega)
    by_cases hr : r = Fin.ofNat 16 k
    · have hv : r.val = k := by rw [hr, hk16]
      rw [dif_neg (by omega), if_pos hr, dif_pos (by simp only [List.length_cons]; omega)]
      simp [hv]
    · have hv : r.val ≠ k := fun e => hr (Fin.ext (by rw [hk16, e]))
      by_cases hin : k + 1 ≤ r.val ∧ r.val < k + 1 + rest.length
      · rw [dif_pos hin, dif_pos (by simp only [List.length_cons]; omega), List.getElem_cons, dif_neg (by omega)]
        congr 1
      · rw [dif_neg hin, if_neg hr, dif_neg (by simp only [List.length_cons]; omega)]

@[simp] theorem State.length_regBlock (s : State) (x : Reg) : (s.regBlock x).length = x.val + 1 := by
  simp [State.regBlock]

@[simp] theorem State.getElem_regBlock (s : State) (x : Reg) (k : Nat) (h : k < (s.regBlock x).length) :
    (s.regBlock x)[k] = s.reg (Fin.ofNat 16 k) := by
  simp [State.regBlock]

theorem reg_ofNat_val (k : Reg) : Fin.ofNat 16 k.val = k := Fin.ext (Nat.mod_eq_of_lt k.isLt)

end Sys2Proof.Machine
end

