-- ==== Sys2Proof/Laws/Exec.lean ====
section
/-! SUPPORT. What each shared operand form and each event can do, said once: the bounds check, the key index, the key
scan, the drawing of a sprite, the outcome of an instruction, the shape of a step. -/

namespace Sys2Proof.Machine

/-! ### Operand forms -/

@[simp] theorem State.effAddr_eq (s : State) (k : Nat) : s.effAddr k = s.i.toNat + k := rfl

theorem State.inBounds_iff (s : State) (k : Nat) : s.inBounds k = true ↔ s.i.toNat + k ≤ 4095 := by
  rw [State.inBounds, decide_eq_true_iff, State.effAddr_eq]

theorem State.inBounds_false_iff (s : State) (k : Nat) : s.inBounds k = false ↔ 4095 < s.i.toNat + k := by
  rw [State.inBounds, decide_eq_false_iff_not, State.effAddr_eq, Nat.not_le]

/-- A register's value at most 15 is the index of a key (R160). -/
theorem keyIndex_eq_some {u : Byte} {k : Reg} (h : u.toNat = k.val) : keyIndex u = some k := by
  unfold keyIndex
  rw [if_pos (by omega), h, reg_ofNat_val]

/-- A register's value above 15 is the index of no key (R160). -/
theorem keyIndex_eq_none {u : Byte} (h : 15 < u.toNat) : keyIndex u = none := by
  unfold keyIndex
  rw [if_neg (by omega)]

theorem allKeys_get (k : Reg) : allKeys[k.val]'(by show k.val < 16; omega) = k := by
  revert k
  decide

/-- The key scan finds the pressed key with no pressed key below it (R163). -/
theorem State.lowestKey_eq_some {s : State} {k : Reg} (hk : s.keys[k] = true)
    (hl : ∀ j : Reg, j < k → s.keys[j] = false) : s.lowestKey = some k := by
  unfold State.lowestKey
  rw [List.find?_eq_some_iff_getElem]
  refine ⟨hk, k.val, by show k.val < 16; omega, allKeys_get k, fun j hj => ?_⟩
  have hj16 : j < 16 := by omega
  have hget := allKeys_get ⟨j, hj16⟩
  have := hl ⟨j, hj16⟩ hj
  simp only [State.key]
  simp only at hget
  rw [hget, this]
  rfl

/-- With no key pressed the scan finds none (R163). -/
theorem State.lowestKey_eq_none {s : State} (h : ∀ k : Reg, s.keys[k] = false) : s.lowestKey = none := by
  unfold State.lowestKey
  rw [List.find?_eq_none]
  intro k _
  simp [State.key, h k]

/-- What the scan finds is pressed, and no lower key is (R163). -/
theorem State.lowestKey_cases (s : State) :
    (∃ k : Reg, s.lowestKey = some k ∧ s.keys[k] = true) ∨
    (s.lowestKey = none ∧ ∀ k : Reg, s.keys[k] = false) := by
  rcases h : s.lowestKey with _ | k
  · refine .inr ⟨rfl, fun k => ?_⟩
    unfold State.lowestKey at h
    have := List.find?_eq_none.1 h k (by rw [← allKeys_get k]; exact List.getElem_mem _)
    simpa [State.key] using this
  · exact .inl ⟨k, rfl, by unfold State.lowestKey at h; simpa [State.key] using List.find?_some h⟩

/-- The cells DRW toggles are those a set bit of a row names, at column (V[X] + c) mod 64 and row (V[Y] + r) mod 32
(R151). -/
theorem State.mem_spritePixels (s : State) (x0 y0 : Byte) (a n : Nat) (p : Pixel) :
    p ∈ spritePixels x0 y0 (s.loadBytes a n) ↔
      ∃ r c, r < n ∧ c < 8 ∧ (s.byteAt (a + r)).getLsbD (7 - c) = true ∧
        p.x.val = (x0.toNat + c) % 64 ∧ p.y.val = (y0.toNat + r) % 32 := by
  unfold spritePixels
  rw [mem_spritePixelsFrom]
  constructor
  · rintro ⟨r, hr, c, hc, rfl⟩
    rw [mem_setColumns, State.getElem_loadBytes] at hc
    exact ⟨r, c, by simpa using hr, hc.1, hc.2, rfl, by rw [Nat.zero_add]; rfl⟩
  · rintro ⟨r, c, hr, hc, hb, hx, hy⟩
    refine ⟨r, by simpa using hr, c, ?_, ?_⟩
    · rw [mem_setColumns, State.getElem_loadBytes]
      exact ⟨hc, hb⟩
    · rw [Nat.zero_add]
      obtain ⟨px, py⟩ := p
      unfold spritePixel
      congr 1
      · exact Fin.ext hx.symm
      · exact Fin.ext hy.symm

/-- The framebuffer and the collision flag DRW leaves, cell by cell (R151). -/
theorem State.drawn_spec (s : State) (x y : Reg) (n : Nat) (hn : n ≤ 32) :
    (∀ p, Framebuffer.get (s.drawn x y n).1 p =
      if p ∈ spritePixels (s.reg x) (s.reg y) (s.loadBytes s.i.toNat n) then !Framebuffer.get s.fb p
      else Framebuffer.get s.fb p) ∧
    ((s.drawn x y n).2 = true ↔
      ∃ p ∈ spritePixels (s.reg x) (s.reg y) (s.loadBytes s.i.toNat n), Framebuffer.get s.fb p = true) := by
  have h := drawPixels_spec (spritePixels (s.reg x) (s.reg y) (s.loadBytes s.i.toNat n))
    (nodup_spritePixelsFrom _ _ _ 0 (by simpa using hn)) s.fb false
  exact ⟨h.1, by
    have h2 : (s.drawn x y n).2 = _ := h.2
    rw [h2, Bool.false_or, List.any_eq_true]⟩

/-! ### Timers and images -/

/-- A timer counted down stops at 0 (R185). -/
theorem countDown_toNat (u : Byte) : (countDown u).toNat = u.toNat - 1 := by
  unfold countDown
  split
  next h => rw [h]; rfl
  next h =>
    have h0 : u.toNat ≠ 0 := fun e => h (BitVec.eq_of_toNat_eq e)
    have hlt := u.isLt
    rw [BitVec.toNat_sub]
    show (2 ^ 8 - 1 + u.toNat) % 2 ^ 8 = u.toNat - 1
    omega

theorem State.beeps_iff (s : State) : s.beeps = true ↔ s.st.toNat = 1 := by
  simp [State.beeps, ← BitVec.toNat_inj]

theorem imageFits_iff (data : List Byte) : imageFits data = true ↔ data.length ≤ 3584 := by
  rw [imageFits, decide_eq_true_iff]
  rfl

/-- LOAD is a store of the image from 512 upward if the image fits, and nothing if it does not (R202). -/
theorem State.load_cases (s : State) (data : List Byte) :
    (data.length ≤ 3584 ∧ s.load data = s.storeBytes 512 data) ∨ (3584 < data.length ∧ s.load data = s) := by
  by_cases h : data.length ≤ 3584
  · exact .inl ⟨h, by rw [State.load, (imageFits_iff data).2 h]; rfl⟩
  · refine .inr ⟨by omega, ?_⟩
    rw [State.load, if_neg fun e => h ((imageFits_iff data).1 e)]

/-! ### Outcomes -/

/-- Every instruction answers a next state; a fault is one (log entry 1). -/
theorem exec_next (i : Instr) (s : State) : ∃ t, exec i s = .next t := by
  cases i
  case ret => simp only [exec, execRet]; split <;> exact ⟨_, rfl⟩
  case call => simp only [exec, execCall]; split <;> exact ⟨_, rfl⟩
  case drw => simp only [exec, execDrw]; split <;> exact ⟨_, rfl⟩
  case skp => simp only [exec, execSkp]; split <;> exact ⟨_, rfl⟩
  case sknp => simp only [exec, execSknp]; split <;> exact ⟨_, rfl⟩
  case ldVxK => simp only [exec, execLdVxK]; split <;> exact ⟨_, rfl⟩
  case ldB => simp only [exec, execLdB]; split <;> exact ⟨_, rfl⟩
  case stRegs => simp only [exec, execStRegs]; split <;> exact ⟨_, rfl⟩
  case ldRegs => simp only [exec, execLdRegs]; split <;> exact ⟨_, rfl⟩
  all_goals exact ⟨_, rfl⟩

/-- Everything a STEP can do: nothing when halted, a fetch fault, an unsupported word, or the instruction (R90). -/
theorem stepEvent_cases (s : State) :
    (∃ f, s.fault = some f ∧ stepEvent s = .next s) ∨
    (s.fault = none ∧ 4094 < s.pc.toNat ∧
      stepEvent s = .next (s.takeFault (.memoryBounds (max s.pc.toNat 4096)) 0)) ∨
    (s.fault = none ∧ s.pc.toNat ≤ 4094 ∧ decodeWord s.fetchWord = none ∧
      stepEvent s = .next (s.takeFault (.unsupportedInstruction s.fetchWord) s.fetchWord)) ∨
    (∃ i, s.fault = none ∧ s.pc.toNat ≤ 4094 ∧ decodeWord s.fetchWord = some i ∧ stepEvent s = exec i s) := by
  rcases hf : s.fault with _ | f
  · by_cases hp : s.pc.toNat ≤ 4094
    · rcases hd : decodeWord s.fetchWord with _ | i
      · exact .inr (.inr (.inl ⟨rfl, hp, rfl, by simp [stepEvent, hf, State.fetchable, hp, hd]⟩))
      · exact .inr (.inr (.inr ⟨i, rfl, hp, rfl, by simp [stepEvent, hf, State.fetchable, hp, hd]⟩))
    · exact .inr (.inl ⟨rfl, by omega, by simp [stepEvent, hf, State.fetchable, hp]⟩)
  · exact .inl ⟨f, rfl, by simp [stepEvent, hf]⟩

/-- A step whose next event is STEP is the STEP cycle on the state with that event taken. -/
theorem step_of_nextEvent {s : State} (h : s.nextEvent = .step) : step s = stepEvent s.takeEvent := by
  rw [step, h]
  rfl

@[simp] theorem State.takeEvent_byteAt (s : State) (a : Nat) : s.takeEvent.byteAt a = s.byteAt a := rfl

@[simp] theorem State.takeEvent_fetchWord (s : State) : s.takeEvent.fetchWord = s.fetchWord := rfl

/-- The word at pc, from its two bytes (R51). -/
theorem State.fetchWord_toNat (s : State) :
    s.fetchWord.toNat = (s.byteAt s.pc.toNat).toNat * 256 + (s.byteAt (s.pc.toNat + 1)).toNat := by
  unfold State.fetchWord wordOfBytes
  erw [BitVec.toNat_append]
  rw [← Nat.shiftLeft_add_eq_or_of_lt (s.byteAt (s.pc.toNat + 1)).isLt, Nat.shiftLeft_eq]

/-- A run of one step more begins with that step. -/
theorem run_succ {s t : State} (h : step s = .next t) (k : Nat) :
    Sys2Proof.core.run (k + 1) s = Sys2Proof.core.run k t := by
  have h' : Sys2Proof.core.step s = .next t := h
  simp only [Host.Core.run, h']

/-! ### A word placed for the next step (log entry 11) -/

theorem State.fetchablePc_le (s : State) : s.fetchablePc.toNat ≤ 4094 := by
  unfold State.fetchablePc
  split
  next h => simpa [State.fetchable] using h
  next => decide

/-- The word placed is the one the next step fetches, from a state that is not halted and has nothing scheduled. -/
theorem State.withFetchWord_spec (s : State) (nbits w : Nat) :
    (s.withFetchWord nbits w).fault = none ∧ (s.withFetchWord nbits w).nextEvent = .step ∧
    (s.withFetchWord nbits w).pc.toNat ≤ 4094 ∧ (s.withFetchWord nbits w).fetchWord = tableWord nbits w := by
  have hpc : (s.withFetchWord nbits w).pc = s.fetchablePc := by
    simp [State.withFetchWord, State.storeWordAtPc, State.readyToStep]
  refine ⟨by simp [State.withFetchWord, State.storeWordAtPc, State.readyToStep],
    by simp [State.withFetchWord, State.storeWordAtPc, State.readyToStep, State.nextEvent],
    by rw [hpc]; exact s.fetchablePc_le, ?_⟩
  unfold State.fetchWord
  rw [hpc]
  have h0 := State.byteAt_storeBytes_inside (s := s.readyToStep) (a := s.fetchablePc.toNat) (k := 0)
    (bs := bytesOfWord (tableWord nbits w)) (by simp [bytesOfWord])
  have h1 := State.byteAt_storeBytes_inside (s := s.readyToStep) (a := s.fetchablePc.toNat) (k := 1)
    (bs := bytesOfWord (tableWord nbits w)) (by simp [bytesOfWord])
  have e : s.withFetchWord nbits w =
      s.readyToStep.storeBytes s.fetchablePc.toNat (bytesOfWord (tableWord nbits w)) := rfl
  rw [Nat.add_zero] at h0
  rw [e, h0, h1]
  exact wordOfBytes_bytes _

end Sys2Proof.Machine
end

