-- ==== Sys2Proof/Laws/PerInstr.lean ====
section
/-! SUPPORT. What is said of every instruction as syntax, one lemma per constructor. Family FixedFields: the fields of
an instruction's word that the opcode table fixes (spec/30_encoding.md R72, R75) hold the table's values, whatever
the operands. -/

namespace Sys2Proof.Laws

/-- The fields of a word that the table fixes for an instruction. -/
def fixedFields (w : Word) : Instr → Prop
  | .nop => w = 0x0000#16
  | .cls => w = 0x00E0#16
  | .ret => w = 0x00EE#16
  | .jp _ => fieldD1 w = 0x1
  | .call _ => fieldD1 w = 0x2
  | .seImm _ _ => fieldD1 w = 0x3
  | .sneImm _ _ => fieldD1 w = 0x4
  | .seReg _ _ => fieldD1 w = 0x5 ∧ fieldN w = 0x0
  | .ldImm _ _ => fieldD1 w = 0x6
  | .addImm _ _ => fieldD1 w = 0x7
  | .ldReg _ _ => fieldD1 w = 0x8 ∧ fieldN w = 0x0
  | .or _ _ => fieldD1 w = 0x8 ∧ fieldN w = 0x1
  | .and _ _ => fieldD1 w = 0x8 ∧ fieldN w = 0x2
  | .xor _ _ => fieldD1 w = 0x8 ∧ fieldN w = 0x3
  | .addReg _ _ => fieldD1 w = 0x8 ∧ fieldN w = 0x4
  | .sub _ _ => fieldD1 w = 0x8 ∧ fieldN w = 0x5
  | .shr _ _ => fieldD1 w = 0x8 ∧ fieldN w = 0x6
  | .subn _ _ => fieldD1 w = 0x8 ∧ fieldN w = 0x7
  | .shl _ _ => fieldD1 w = 0x8 ∧ fieldN w = 0xE
  | .sneReg _ _ => fieldD1 w = 0x9 ∧ fieldN w = 0x0
  | .ldI _ => fieldD1 w = 0xA
  | .jpV0 _ => fieldD1 w = 0xB
  | .rnd _ _ => fieldD1 w = 0xC
  | .drw _ _ _ => fieldD1 w = 0xD
  | .skp _ => fieldD1 w = 0xE ∧ fieldNN w = 0x9E
  | .sknp _ => fieldD1 w = 0xE ∧ fieldNN w = 0xA1
  | .ldVxDt _ => fieldD1 w = 0xF ∧ fieldNN w = 0x07
  | .ldVxK _ => fieldD1 w = 0xF ∧ fieldNN w = 0x0A
  | .ldDtVx _ => fieldD1 w = 0xF ∧ fieldNN w = 0x15
  | .ldStVx _ => fieldD1 w = 0xF ∧ fieldNN w = 0x18
  | .addI _ => fieldD1 w = 0xF ∧ fieldNN w = 0x1E
  | .ldF _ => fieldD1 w = 0xF ∧ fieldNN w = 0x29
  | .ldB _ => fieldD1 w = 0xF ∧ fieldNN w = 0x33
  | .stRegs _ => fieldD1 w = 0xF ∧ fieldNN w = 0x55
  | .ldRegs _ => fieldD1 w = 0xF ∧ fieldNN w = 0x65

/-- The word of an instruction holds the table's values in the fields the table fixes. -/
def FixedFields.Statement (i : Instr) : Prop := fixedFields (encode i) i

theorem FixedFields.nop : FixedFields.Statement .nop :=
  rfl
theorem FixedFields.cls : FixedFields.Statement .cls :=
  rfl
theorem FixedFields.ret : FixedFields.Statement .ret :=
  rfl
theorem FixedFields.jp (nnn : BitVec 12) : FixedFields.Statement (.jp nnn) :=
  by simp [FixedFields.Statement, fixedFields, encode]
theorem FixedFields.call (nnn : BitVec 12) : FixedFields.Statement (.call nnn) :=
  by simp [FixedFields.Statement, fixedFields, encode]
theorem FixedFields.seImm (x : Reg) (nn : Byte) : FixedFields.Statement (.seImm x nn) :=
  by simp [FixedFields.Statement, fixedFields, encode]
theorem FixedFields.sneImm (x : Reg) (nn : Byte) : FixedFields.Statement (.sneImm x nn) :=
  by simp [FixedFields.Statement, fixedFields, encode]
theorem FixedFields.seReg (x : Reg) (y : Reg) : FixedFields.Statement (.seReg x y) :=
  ⟨by simp [encode], by simp [encode]⟩
theorem FixedFields.ldImm (x : Reg) (nn : Byte) : FixedFields.Statement (.ldImm x nn) :=
  by simp [FixedFields.Statement, fixedFields, encode]
theorem FixedFields.addImm (x : Reg) (nn : Byte) : FixedFields.Statement (.addImm x nn) :=
  by simp [FixedFields.Statement, fixedFields, encode]
theorem FixedFields.ldReg (x : Reg) (y : Reg) : FixedFields.Statement (.ldReg x y) :=
  ⟨by simp [encode], by simp [encode]⟩
theorem FixedFields.or (x : Reg) (y : Reg) : FixedFields.Statement (.or x y) :=
  ⟨by simp [encode], by simp [encode]⟩
theorem FixedFields.and (x : Reg) (y : Reg) : FixedFields.Statement (.and x y) :=
  ⟨by simp [encode], by simp [encode]⟩
theorem FixedFields.xor (x : Reg) (y : Reg) : FixedFields.Statement (.xor x y) :=
  ⟨by simp [encode], by simp [encode]⟩
theorem FixedFields.addReg (x : Reg) (y : Reg) : FixedFields.Statement (.addReg x y) :=
  ⟨by simp [encode], by simp [encode]⟩
theorem FixedFields.sub (x : Reg) (y : Reg) : FixedFields.Statement (.sub x y) :=
  ⟨by simp [encode], by simp [encode]⟩
theorem FixedFields.shr (x : Reg) (y : Reg) : FixedFields.Statement (.shr x y) :=
  ⟨by simp [encode], by simp [encode]⟩
theorem FixedFields.subn (x : Reg) (y : Reg) : FixedFields.Statement (.subn x y) :=
  ⟨by simp [encode], by simp [encode]⟩
theorem FixedFields.shl (x : Reg) (y : Reg) : FixedFields.Statement (.shl x y) :=
  ⟨by simp [encode], by simp [encode]⟩
theorem FixedFields.sneReg (x : Reg) (y : Reg) : FixedFields.Statement (.sneReg x y) :=
  ⟨by simp [encode], by simp [encode]⟩
theorem FixedFields.ldI (nnn : BitVec 12) : FixedFields.Statement (.ldI nnn) :=
  by simp [FixedFields.Statement, fixedFields, encode]
theorem FixedFields.jpV0 (nnn : BitVec 12) : FixedFields.Statement (.jpV0 nnn) :=
  by simp [FixedFields.Statement, fixedFields, encode]
theorem FixedFields.rnd (x : Reg) (nn : Byte) : FixedFields.Statement (.rnd x nn) :=
  by simp [FixedFields.Statement, fixedFields, encode]
theorem FixedFields.drw (x : Reg) (y : Reg) (n : Nat) : FixedFields.Statement (.drw x y n) :=
  by simp [FixedFields.Statement, fixedFields, encode]
theorem FixedFields.skp (x : Reg) : FixedFields.Statement (.skp x) :=
  ⟨by simp [encode], by simp [encode]⟩
theorem FixedFields.sknp (x : Reg) : FixedFields.Statement (.sknp x) :=
  ⟨by simp [encode], by simp [encode]⟩
theorem FixedFields.ldVxDt (x : Reg) : FixedFields.Statement (.ldVxDt x) :=
  ⟨by simp [encode], by simp [encode]⟩
theorem FixedFields.ldVxK (x : Reg) : FixedFields.Statement (.ldVxK x) :=
  ⟨by simp [encode], by simp [encode]⟩
theorem FixedFields.ldDtVx (x : Reg) : FixedFields.Statement (.ldDtVx x) :=
  ⟨by simp [encode], by simp [encode]⟩
theorem FixedFields.ldStVx (x : Reg) : FixedFields.Statement (.ldStVx x) :=
  ⟨by simp [encode], by simp [encode]⟩
theorem FixedFields.addI (x : Reg) : FixedFields.Statement (.addI x) :=
  ⟨by simp [encode], by simp [encode]⟩
theorem FixedFields.ldF (x : Reg) : FixedFields.Statement (.ldF x) :=
  ⟨by simp [encode], by simp [encode]⟩
theorem FixedFields.ldB (x : Reg) : FixedFields.Statement (.ldB x) :=
  ⟨by simp [encode], by simp [encode]⟩
theorem FixedFields.stRegs (x : Reg) : FixedFields.Statement (.stRegs x) :=
  ⟨by simp [encode], by simp [encode]⟩
theorem FixedFields.ldRegs (x : Reg) : FixedFields.Statement (.ldRegs x) :=
  ⟨by simp [encode], by simp [encode]⟩

end Sys2Proof.Laws
end

