-- ==== Sys2Proof/Tests/Slice0.lean ====
section
/-! SUPPORT. The model's own tests: each constructor's decoding by a word written out from the table's pattern, the
checks of WellFormed, single steps from spec/95_test_vectors.md (each named with its vector), and for each statement
that has hypotheses a state that meets them. -/

namespace Sys2Proof.Tests

open Sys2Proof Sys2Proof.Machine Sys2Proof.Claims

/-! ### WellFormed: an ill-formed term for its one check, and the largest height that fits (R73) -/

theorem test_wellFormed_refuses_height_16 : (Instr.drw 0 1 16).wellFormed = false := by decide
theorem test_wellFormed_admits_height_15 : (Instr.drw 0 1 15).wellFormed = true := by decide

/-! ### Decoding: one word per row of R75, written out from its pattern -/

theorem test_decode_nop : decodeWord 0b0000000000000000 = some (.nop) := by decide
theorem test_decode_cls : decodeWord 0b0000000011100000 = some (.cls) := by decide
theorem test_decode_ret : decodeWord 0b0000000011101110 = some (.ret) := by decide
theorem test_decode_jp : decodeWord 0b0001101010111100 = some (.jp 0xABC) := by decide
theorem test_decode_call : decodeWord 0b0010001100000000 = some (.call 0x300) := by decide
theorem test_decode_seImm : decodeWord 0b0011001100101010 = some (.seImm 3 0x2A) := by decide
theorem test_decode_sneImm : decodeWord 0b0100001100101010 = some (.sneImm 3 0x2A) := by decide
theorem test_decode_seReg : decodeWord 0b0101000100100000 = some (.seReg 1 2) := by decide
theorem test_decode_ldImm : decodeWord 0b0110101000101011 = some (.ldImm 10 0x2B) := by decide
theorem test_decode_addImm : decodeWord 0b0111001000000010 = some (.addImm 2 2) := by decide
theorem test_decode_ldReg : decodeWord 0b1000000000010000 = some (.ldReg 0 1) := by decide
theorem test_decode_or : decodeWord 0b1000000000010001 = some (.or 0 1) := by decide
theorem test_decode_and : decodeWord 0b1000000000010010 = some (.and 0 1) := by decide
theorem test_decode_xor : decodeWord 0b1000000000010011 = some (.xor 0 1) := by decide
theorem test_decode_addReg : decodeWord 0b1000000000010100 = some (.addReg 0 1) := by decide
theorem test_decode_sub : decodeWord 0b1000000000010101 = some (.sub 0 1) := by decide
theorem test_decode_shr : decodeWord 0b1000000100100110 = some (.shr 1 2) := by decide
theorem test_decode_subn : decodeWord 0b1000000000010111 = some (.subn 0 1) := by decide
theorem test_decode_shl : decodeWord 0b1000000000001110 = some (.shl 0 0) := by decide
theorem test_decode_sneReg : decodeWord 0b1001000100100000 = some (.sneReg 1 2) := by decide
theorem test_decode_ldI : decodeWord 0b1010001011110000 = some (.ldI 0x2F0) := by decide
theorem test_decode_jpV0 : decodeWord 0b1011001100000000 = some (.jpV0 0x300) := by decide
theorem test_decode_rnd : decodeWord 0b1100001100001111 = some (.rnd 3 0x0F) := by decide
theorem test_decode_drw : decodeWord 0b1101000000010010 = some (.drw 0 1 2) := by decide
theorem test_decode_skp : decodeWord 0b1110001010011110 = some (.skp 2) := by decide
theorem test_decode_sknp : decodeWord 0b1110001010100001 = some (.sknp 2) := by decide
theorem test_decode_ldVxDt : decodeWord 0b1111010000000111 = some (.ldVxDt 4) := by decide
theorem test_decode_ldVxK : decodeWord 0b1111001100001010 = some (.ldVxK 3) := by decide
theorem test_decode_ldDtVx : decodeWord 0b1111010000010101 = some (.ldDtVx 4) := by decide
theorem test_decode_ldStVx : decodeWord 0b1111010000011000 = some (.ldStVx 4) := by decide
theorem test_decode_addI : decodeWord 0b1111000100011110 = some (.addI 1) := by decide
theorem test_decode_ldF : decodeWord 0b1111000000101001 = some (.ldF 0) := by decide
theorem test_decode_ldB : decodeWord 0b1111000000110011 = some (.ldB 0) := by decide
theorem test_decode_stRegs : decodeWord 0b1111001001010101 = some (.stRegs 2) := by decide
theorem test_decode_ldRegs : decodeWord 0b1111001001100101 = some (.ldRegs 2) := by decide

/-- S14 and R51: the byte at the lower address is the high one. -/
theorem test_decodeBytes_big_endian : decodeBytes [0x12, 0x34, 0x56] = .instr (.jp 0x234) [0x56] := by decide
theorem test_decodeBytes_too_short : decodeBytes [0x12] = .rejected .tooShort := by decide
theorem test_decodeBytes_unsupported : decodeBytes [0x50, 0x11] = .rejected (.unsupportedInstruction 0x5011) := by
  decide
theorem test_decodeTableWord : decodeTableWord 16 0xF265 = some (.ldRegs 2) := by decide

/-- One word of each group of R79 (vectors T2 to T7). -/
theorem test_decode_unsupported :
    decodeWord 0x0001 = none ∧ decodeWord 0x5011 = none ∧ decodeWord 0x800F = none ∧ decodeWord 0x9121 = none ∧
    decodeWord 0xE09F = none ∧ decodeWord 0xF075 = none := by decide

/-! ### Single steps: the word at 0x200, the registers set as the vector says -/

/-- RESET's state with some registers set. -/
def withRegs (l : List (Reg × Byte)) : State := l.foldl (fun s p => s.setReg p.1 p.2) State.reset

/-- The state after one step that runs a word from a state. -/
def ran (w : Nat) (s : State) : State :=
  match step (s.withFetchWord 16 w) with
  | .next t => t
  | .fault _ => s
  | .refused _ => s

/-- A state whose I is set. -/
def atI (a : Word) (s : State) : State := s.setI a

/-- The latch of a fault at 0x200. -/
def latched (c : Fault) (w : Word) : Option FaultRecord := some { cause := c, pc0 := 0x200, word := w }

/-- T1 -/
theorem test_nop : (ran 0x0000 State.reset).pc = 0x202 := by decide
/-- T2 -/
theorem test_unsupported : (ran 0x0001 State.reset).fault = latched (.unsupportedInstruction 0x0001) 0x0001 ∧
    (ran 0x0001 State.reset).pc = 0x200 := by decide
/-- T10 -/
theorem test_odd_pc : (ran 0x6107 (State.reset.setPc 0x201)).reg 1 = 7 ∧ (ran 0x6107 (State.reset.setPc 0x201)).pc = 0x203 := by decide
/-- T8 -/
theorem test_last_word : (ran 0x0000 (State.reset.setPc 4094)).pc = 4096 := by decide
/-- F2 -/
theorem test_jp : (ran 0x1201 State.reset).pc = 0x201 := by decide
/-- F4 -/
theorem test_call : (ran 0x2300 State.reset).pc = 0x300 ∧ (ran 0x2300 State.reset).sp.val = 1 ∧
    (ran 0x2300 State.reset).stack[0] = 0x202 := by decide
/-- F6 -/
theorem test_call_overflow : (ran 0x2300 { State.reset with sp := 16 }).fault = latched .stackOverflow 0x2300 ∧
    (ran 0x2300 { State.reset with sp := 16 }).pc = 0x200 := by decide
/-- F7 -/
theorem test_ret : (ran 0x00EE (State.reset.push 0x456)).pc = 0x456 ∧ (ran 0x00EE (State.reset.push 0x456)).sp.val = 0 := by decide
/-- F8 -/
theorem test_ret_underflow : (ran 0x00EE State.reset).fault = latched .stackUnderflow 0x00EE := by decide
/-- F10 -/
theorem test_jpV0 : (ran 0xBFFF (withRegs [(0, 0xFF)])).pc = 0x10FE := by decide
/-- F11, F12 -/
theorem test_seImm : (ran 0x332A (withRegs [(3, 0x2A)])).pc = 0x204 ∧ (ran 0x332A (withRegs [(3, 0x2B)])).pc = 0x202 := by decide
/-- F13, F14 -/
theorem test_sneImm : (ran 0x432A (withRegs [(3, 0x2A)])).pc = 0x202 ∧ (ran 0x432A State.reset).pc = 0x204 := by decide
/-- F15, F16 -/
theorem test_seReg : (ran 0x5120 (withRegs [(1, 7), (2, 7)])).pc = 0x204 ∧
    (ran 0x5120 (withRegs [(1, 7), (2, 8)])).pc = 0x202 := by decide
/-- F18, F20 -/
theorem test_sneReg : (ran 0x9120 (withRegs [(1, 7), (2, 8)])).pc = 0x204 ∧ (ran 0x9440 (withRegs [(4, 9)])).pc = 0x202 := by decide
/-- A1 -/
theorem test_ldImm : (ran 0x6A2B State.reset).reg 10 = 0x2B ∧ (ran 0x6A2B State.reset).pc = 0x202 := by decide
/-- A2, A3 -/
theorem test_addImm : (ran 0x7202 (withRegs [(2, 0xFF)])).reg 2 = 1 ∧ (ran 0x7202 (withRegs [(2, 0xFF)])).reg 15 = 0 ∧
    (ran 0x7FFF State.reset).reg 15 = 0xFF := by decide
/-- A4 -/
theorem test_ldReg : (ran 0x8010 (withRegs [(1, 0x55)])).reg 0 = 0x55 := by decide
/-- A5 -/
theorem test_or : (ran 0x8011 (withRegs [(0, 0xF0), (1, 0x0F), (15, 1)])).reg 0 = 0xFF ∧
    (ran 0x8011 (withRegs [(0, 0xF0), (1, 0x0F), (15, 1)])).reg 15 = 1 := by decide
/-- A6 -/
theorem test_and_xor : (ran 0x8012 (withRegs [(0, 0xF0), (1, 0x3C)])).reg 0 = 0x30 ∧
    (ran 0x8013 (withRegs [(0, 0xF0), (1, 0x3C)])).reg 0 = 0xCC := by decide
/-- A8 -/
theorem test_addReg : (ran 0x8014 (withRegs [(0, 0xFF), (1, 1)])).reg 0 = 0 ∧ (ran 0x8014 (withRegs [(0, 0xFF), (1, 1)])).reg 15 = 1 := by decide
/-- A7, A10 -/
theorem test_addReg_flag_operand : (ran 0x8F14 (withRegs [(15, 0xFF), (1, 1)])).reg 15 = 1 ∧
    (ran 0x80F4 (withRegs [(0, 1), (15, 0xFF)])).reg 0 = 0 := by decide
/-- A14, A15 -/
theorem test_sub : (ran 0x8015 (withRegs [(0, 3), (1, 5)])).reg 0 = 0xFE ∧ (ran 0x8015 (withRegs [(0, 3), (1, 5)])).reg 15 = 0 ∧
    (ran 0x8015 (withRegs [(0, 5), (1, 5)])).reg 15 = 1 := by decide
/-- A18 -/
theorem test_shr : (ran 0x8126 (withRegs [(1, 0xFF), (2, 0x10)])).reg 1 = 0x7F ∧
    (ran 0x8126 (withRegs [(1, 0xFF), (2, 0x10)])).reg 15 = 1 ∧ (ran 0x8126 (withRegs [(1, 0xFF), (2, 0x10)])).reg 2 = 0x10 := by decide
/-- A16 -/
theorem test_shr_flag_operand : (ran 0x8F06 (withRegs [(15, 3)])).reg 15 = 1 ∧ (ran 0x8F06 (withRegs [(15, 2)])).reg 15 = 0 := by decide
/-- A20, A19 -/
theorem test_subn : (ran 0x8017 (withRegs [(0, 3), (1, 5)])).reg 0 = 2 ∧ (ran 0x8017 (withRegs [(0, 3), (1, 5)])).reg 15 = 1 ∧
    (ran 0x8F17 (withRegs [(15, 5), (1, 3)])).reg 15 = 0 := by decide
/-- A22, A23 -/
theorem test_shl : (ran 0x800E (withRegs [(0, 0x81)])).reg 0 = 2 ∧ (ran 0x800E (withRegs [(0, 0x81)])).reg 15 = 1 ∧
    (ran 0x8F0E (withRegs [(15, 0xC0)])).reg 15 = 1 := by decide
/-- A26: the free byte masked; the draw is spent -/
theorem test_rnd : (ran 0xC30F State.reset).reg 3 = Config.randomByte 0 &&& 0x0F ∧ (ran 0xC30F State.reset).draws = 1 := ⟨rfl, rfl⟩
/-- M1 -/
theorem test_ldI : (ran 0xA2F0 State.reset).i = 0x2F0 := by decide
/-- M3, M4 -/
theorem test_addI : (ran 0xF01E (atI 0xFFFF (withRegs [(0, 2)]))).i = 1 ∧ (ran 0xF01E (atI 0xFFF (withRegs [(0, 1)]))).i = 0x1000 ∧
    (ran 0xF01E (atI 0xFFF (withRegs [(0, 1)]))).reg 15 = 0 := by decide
/-- M5, M6 -/
theorem test_ldF : (ran 0xF029 (withRegs [(0, 10)])).i = 50 ∧ (ran 0xF029 (withRegs [(0, 0xFF)])).i = 1275 := by decide
/-- S7 -/
theorem test_ldB : ((ran 0xF033 (atI 0x300 (withRegs [(0, 157)]))).loadBytes 0x300 3) = [1, 5, 7] := by decide
/-- M9 -/
theorem test_ldB_bounds : (ran 0xF033 (atI 0xFFE (withRegs [(0, 255)]))).fault = latched (.memoryBounds 4096) 0xF033 := by decide
/-- M16: the instruction overwrites its own word -/
theorem test_stRegs : (ran 0xF155 (atI 0x200 (withRegs [(0, 0x12), (1, 0x08)]))).loadBytes 0x200 2 = [0x12, 0x08] ∧
    (ran 0xF155 (atI 0x200 (withRegs [(0, 0x12), (1, 0x08)]))).pc = 0x202 := by decide
/-- M13 -/
theorem test_stRegs_bounds : (ran 0xF055 (atI 0x2000 State.reset)).fault = latched (.memoryBounds 0x2000) 0xF055 := by decide
/-- M14: the default font's first two glyphs (log entry 2) -/
theorem test_ldRegs : (ran 0xFF65 State.reset).reg 0 = 0xF0 ∧ (ran 0xFF65 State.reset).reg 6 = 0x60 ∧ (ran 0xFF65 State.reset).reg 15 = 0xF0 := by decide
/-- M15 -/
theorem test_ldRegs_bounds : (ran 0xFF65 (atI 0xFF1 State.reset)).fault = latched (.memoryBounds 4096) 0xFF65 := by decide

/-- Whether a cell is set. -/
def lit (s : State) (x : Fin 64) (y : Fin 32) : Bool := Framebuffer.get s.fb { x := x, y := y }

/-- G1 -/
theorem test_cls : lit (ran 0x00E0 { State.reset with fb := Framebuffer.flip State.reset.fb { x := 5, y := 7 } }) 5 7 = false := by decide +kernel
/-- G2, S6: horizontal wrap -/
theorem test_drw : let t := ran 0xD011 ((atI 0x300 (withRegs [(0, 63)])).setByte 0x300 0xFF)
    lit t 63 0 ∧ lit t 0 0 ∧ lit t 6 0 ∧ ¬ lit t 7 0 ∧ t.reg 15 = 0 := by decide +kernel
/-- G5 -/
theorem test_drw_collision : let s := (atI 0x300 State.reset).setByte 0x300 0x20
    let t := ran 0xD011 { s with fb := Framebuffer.flip s.fb { x := 2, y := 0 } }
    ¬ lit t 2 0 ∧ t.reg 15 = 1 := by decide +kernel

/-- A key held down. -/
def pressing (k : Reg) (s : State) : State := s.setKey k true

/-- K1, K5 -/
theorem test_skp : (ran 0xE29E (pressing 5 (withRegs [(2, 5)]))).pc = 0x204 ∧
    (ran 0xE09E (withRegs [(0, 16)])).fault = latched (.keypadIndex 16) 0xE09E := by decide
/-- K3, K4 -/
theorem test_sknp : (ran 0xE2A1 (withRegs [(2, 5)])).pc = 0x204 ∧ (ran 0xE2A1 (pressing 5 (withRegs [(2, 5)]))).pc = 0x202 := by decide
/-- K7, K8 -/
theorem test_ldVxK : (ran 0xF30A (withRegs [(3, 0x77)])).pc = 0x200 ∧ (ran 0xF30A (withRegs [(3, 0x77)])).reg 3 = 0x77 ∧
    (ran 0xF30A (pressing 9 (pressing 5 State.reset))).reg 3 = 5 := by decide
/-- K10 -/
theorem test_ldVxDt : (ran 0xF407 (State.reset.setDt 0x2A)).reg 4 = 0x2A := by decide
/-- K11 -/
theorem test_ldDtVx : (ran 0xF415 (withRegs [(4, 60)])).dt = 60 ∧ (ran 0xF415 (withRegs [(4, 60)])).st = 0 := by decide
/-- K12 -/
theorem test_ldStVx : (ran 0xF418 (withRegs [(4, 2)])).st = 2 ∧ (ran 0xF418 (withRegs [(4, 2)])).dt = 0 := by decide

/-! ### Events -/

/-- K14, K15 -/
theorem test_tick_beep : (State.reset.setSt 1).tick.st = 0 ∧ reply .tick (State.reset.setSt 1) = .beep ∧ State.reset.tick.st = 0 ∧
    reply .tick State.reset = .nothing := by decide
/-- L2 -/
theorem test_load : (State.reset.load [0x12, 0x34, 0x56]).loadBytes 0x200 4 = [0x12, 0x34, 0x56, 0] ∧
    (State.reset.load [0x12, 0x34, 0x56]).pc = 0x200 := by decide
/-- S12, L4 -/
theorem test_load_overflow : imageFits (List.replicate 3584 0) = true ∧ imageFits (List.replicate 3585 0) = false := ⟨(decide_eq_true_iff).2 (by rw [List.length_replicate]; decide), decide_eq_false_iff_not.2 (by rw [List.length_replicate]; decide)⟩
/-- P4: a key event lands between two polls -/
theorem test_schedule : let s := { State.reset.storeBytes 0x200 [0xF0, 0x0A] with schedule := [.step, .key 9 true] }
    (match Sys2Proof.core.run 3 s with
      | .next t => t.reg 0
      | .fault _ => 0
      | .refused _ => 0) = 9 := by decide
/-- T11 -/
theorem test_halted_step : (match step (ran 0x0001 State.reset) with
      | .next t => t.fault
      | .fault _ => none
      | .refused _ => none) = latched (.unsupportedInstruction 0x0001) 0x0001 := by decide

/-! ### Witnesses: a state that meets the hypotheses of each statement that has some -/

/-- The state after one instruction. -/
def did (i : Instr) (s : State) : State :=
  match exec i s with
  | .next t => t
  | .fault _ => s
  | .refused _ => s

/-- A halted state. -/
def haltedState : State := State.reset.takeFault .stackUnderflow 0x00EE

/-- A state whose stack is one short of full, with a return address on top. -/
def fifteenDeep : State := { State.reset with sp := 15 }

/-- A state about to draw two rows of 0xC0, 0x81 at (62, 31) (the example of R151). -/
def aboutToDraw : State := (atI 0x20C (withRegs [(0, 62), (1, 31)])).storeBytes 0x20C [0xC0, 0x81]

theorem witness_DecodingIsTheOpcodeTable : (⟨"LD_REGS", 0xF065, 0xF0FF⟩ : Row) ∈ opcodeRows := by decide
theorem witness_DecodeOfEncodeIsTheInstruction : (Instr.drw 15 0 15).wellFormed = true := by decide
theorem witness_EncodeOfDecodeIsTheWord : decodeWord 0xDF0F = some (.drw 15 0 15) := by decide
theorem witness_StepRunsTheDecodedInstruction :
    let s := { State.reset with pc := 4094 }.withFetchWord 16 0x6A2B
    s.nextEvent = .step ∧ s.running ∧ s.pc.toNat ≤ 4094 ∧
    decodeWord (BitVec.ofNat 16 ((s.byteAt s.pc.toNat).toNat * 256 + (s.byteAt (s.pc.toNat + 1)).toNat)) =
      some (.ldImm 10 0x2B) := ⟨by decide, rfl, by decide, by decide⟩
theorem witness_FetchOutsideMemoryLatchesMemoryBounds :
    ({ State.reset with pc := 4095 } : State).nextEvent = .step ∧ ({ State.reset with pc := 4095 } : State).running ∧
    4094 < ({ State.reset with pc := 4095 } : State).pc.toNat := ⟨rfl, rfl, by decide⟩
theorem witness_UnsupportedWordLatchesItself :
    let s := State.reset.withFetchWord 16 0x0FFF
    s.nextEvent = .step ∧ s.running ∧ s.pc.toNat ≤ 4094 ∧ inUnsupportedGroup s.fetchWord :=
  ⟨by decide, rfl, by decide, by unfold inUnsupportedGroup; decide⟩
theorem witness_HaltedStepChangesNothing :
    haltedState.nextEvent = .step ∧ haltedState.fault = some { cause := .stackUnderflow, pc0 := 512, word := 0x00EE } :=
  ⟨rfl, rfl⟩
theorem witness_FaultingStepChangesOnlyTheLatch :
    ∃ t f, (State.reset.withFetchWord 16 0x00EE).nextEvent = .step ∧ (State.reset.withFetchWord 16 0x00EE).running ∧
      step (State.reset.withFetchWord 16 0x00EE) = .next t ∧ t.fault = some f := ⟨_, _, rfl, rfl, rfl, rfl⟩
theorem witness_InstructionsFaultExactlyAsTabled :
    fifteenDeep.running ∧ fifteenDeep.respects (.call 0) = true ∧ State.reset.running ∧
    State.reset.respects .ret = false := ⟨rfl, by decide, rfl, by decide⟩
theorem witness_PcAfterEveryInstruction :
    ∃ t, ({ State.reset with pc := 4094 } : State).running ∧ ({ State.reset with pc := 4094 } : State).pc.toNat ≤ 4094 ∧
      exec .nop { State.reset with pc := 4094 } = .next t ∧ t.fault = none := ⟨_, rfl, by decide, rfl, rfl⟩
theorem witness_OnlyDestinationRegistersChange :
    ∃ t, State.reset.running ∧ exec (.addReg 1 2) State.reset = .next t ∧ ¬ writesReg (.addReg 1 2) 2 :=
  ⟨_, rfl, rfl, by unfold writesReg; decide⟩
theorem witness_FlagWritersLeaveZeroOrOne :
    ∃ t, State.reset.running ∧ exec (.addReg 1 2) State.reset = .next t := ⟨_, rfl, rfl⟩
theorem witness_FlagWritersLeaveZeroOrOne_drw :
    ∃ t, State.reset.running ∧ exec (.drw 0 1 5) State.reset = .next t ∧ t.fault = none :=
  ⟨_, rfl, rfl, rfl⟩
theorem witness_SpecialStateIsWrittenOnlyByItsInstructions :
    ∃ t, State.reset.running ∧ exec (.ldF 3) State.reset = .next t := ⟨_, rfl, rfl⟩
theorem witness_OnlyStoredBytesChange :
    ∃ t, (atI 0xFFD State.reset).running ∧ exec (.ldB 3) (atI 0xFFD State.reset) = .next t ∧ writesMem (.ldB 3) ∧
      0xFFC < (storesTo (.ldB 3) (atI 0xFFD State.reset)).1 := ⟨_, rfl, rfl, .inl ⟨3, rfl⟩, by decide⟩
theorem witness_OnlyRndDependsOnTheRandomByte : ∀ x nn, Instr.cls ≠ .rnd x nn := by
  intro x nn h
  cases h
theorem witness_EveryStepKeepsTheInvariant :
    ∃ t, State.reset.Inv ∧ step State.reset = .next t :=
  ⟨_, ⟨by decide, by decide, by simp [State.reset], by simp [State.reset]⟩, rfl⟩
theorem witness_CallThenReturnComesBack :
    ∃ t u : State, fifteenDeep.running ∧ fifteenDeep.sp.val < 16 ∧ exec (.call 0x300) fifteenDeep = .next t ∧ u.running ∧
      u.sp = t.sp ∧ u.stack = t.stack := ⟨_, did (.call 0x300) fifteenDeep, rfl, by decide, rfl, rfl, rfl, rfl⟩
theorem witness_CallPushesTheReturnAddress :
    fifteenDeep.running ∧ fifteenDeep.sp.val < 16 ∧ ({ State.reset with sp := 16 } : State).running ∧
    ({ State.reset with sp := 16 } : State).sp.val = 16 := ⟨rfl, by decide, rfl, rfl⟩
theorem witness_ReturnPopsIntoPc :
    ({ State.reset with sp := 16 } : State).running ∧
    ({ State.reset with sp := 16 } : State).sp.val = (15 : Reg).val + 1 ∧ State.reset.running ∧
    State.reset.sp.val = 0 := ⟨rfl, rfl, rfl, rfl⟩
theorem witness_BcdStoresDecimalDigits :
    (atI 0xFFD State.reset).running ∧ (atI 0xFFD State.reset).i.toNat + 2 ≤ 4095 ∧ (atI 0xFFE State.reset).running ∧
    4095 < (atI 0xFFE State.reset).i.toNat + 2 := ⟨rfl, by decide, rfl, by decide⟩
theorem witness_StoreRegistersFromI :
    (atI 0xFF0 State.reset).running ∧ (atI 0xFF0 State.reset).i.toNat + (15 : Reg).val ≤ 4095 ∧
    (atI 0xFF1 State.reset).running ∧ 4095 < (atI 0xFF1 State.reset).i.toNat + (15 : Reg).val :=
  ⟨rfl, by decide, rfl, by decide⟩
theorem witness_LoadRegistersFromI :
    (atI 0xFFF State.reset).running ∧ (atI 0xFFF State.reset).i.toNat + (0 : Reg).val ≤ 4095 ∧
    (atI 0x1000 State.reset).running ∧ 4095 < (atI 0x1000 State.reset).i.toNat + (0 : Reg).val :=
  ⟨rfl, by decide, rfl, by decide⟩
theorem witness_StoreThenLoadRestoresTheRegisters :
    ∃ t u : State, (atI 0x400 State.reset).running ∧ (atI 0x400 State.reset).i.toNat + (5 : Reg).val ≤ 4095 ∧
      exec (.stRegs 5) (atI 0x400 State.reset) = .next t ∧ u.running ∧ u.i = (atI 0x400 State.reset).i ∧ SameBytes t u :=
  ⟨_, did (.stRegs 5) (atI 0x400 State.reset), rfl, by decide, rfl, rfl, rfl, fun _ => rfl⟩
theorem witness_StoredBytesAreFetchedNext :
    (atI 0x202 State.reset).running ∧ 1 ≤ (1 : Reg).val ∧ (atI 0x202 State.reset).i.toNat + (1 : Reg).val ≤ 4095 ∧
    (atI 0x202 State.reset).i = (atI 0x202 State.reset).pc + 2 := ⟨rfl, by decide, by decide, by decide⟩
theorem witness_CanonicalMemoriesThatReadAlikeAreEqual :
    Memory.wf defaultFont [(79, 0x81), (80, 1), (4095, 2)] ∧
    ∀ a, Memory.read defaultFont [(79, 0x81), (80, 1), (4095, 2)] a =
      Memory.read defaultFont [(79, 0x81), (80, 1), (4095, 2)] a := ⟨by decide, fun _ => rfl⟩
theorem witness_DrawTogglesTheCellsUnderTheSprite :
    (atI 0xFF1 State.reset).running ∧ (15 = 0 ∨ (atI 0xFF1 State.reset).i.toNat + (15 - 1) ≤ 4095) ∧
    (atI 0xFFFF State.reset).running ∧ (0 = 0 ∨ (atI 0xFFFF State.reset).i.toNat + (0 - 1) ≤ 4095) :=
  ⟨rfl, .inr (by decide), rfl, .inl rfl⟩
theorem witness_DrawTogglesTheCellsUnderTheSprite_covered :
    SpriteCovers aboutToDraw 0 1 2 { x := 5, y := 0 } ∧ ¬ SpriteCovers aboutToDraw 0 1 0 { x := 5, y := 0 } :=
  ⟨⟨1, 7, by decide, by decide, by decide, by decide, by decide⟩, fun ⟨_, _, h, _⟩ => Nat.not_lt_zero _ h⟩
theorem witness_DrawOutsideMemoryLatchesMemoryBounds :
    (atI 0xFF2 State.reset).running ∧ 1 ≤ 15 ∧ 15 ≤ 15 ∧ 4095 < (atI 0xFF2 State.reset).i.toNat + (15 - 1) :=
  ⟨rfl, by decide, by decide, by decide⟩
theorem witness_DrawingTwiceRestoresTheScreen :
    ∃ t u : State, aboutToDraw.running ∧ u.running ∧ (2 = 0 ∨ aboutToDraw.i.toNat + (2 - 1) ≤ 4095) ∧
      exec (.drw 0 1 2) aboutToDraw = .next t ∧ u.fb = t.fb ∧ u.i = aboutToDraw.i ∧ SameBytes aboutToDraw u ∧
      u.reg 0 = aboutToDraw.reg 0 ∧ u.reg 1 = aboutToDraw.reg 1 :=
  ⟨_, { aboutToDraw with fb := (aboutToDraw.drawn 0 1 2).1 }, rfl, rfl, .inr (by decide), rfl, rfl, rfl, fun _ => rfl,
    rfl, rfl⟩
theorem witness_KeySkipsTestTheKey :
    (withRegs [(2, 15)]).running ∧ ((withRegs [(2, 15)]).reg 2).toNat = (15 : Reg).val ∧
    (withRegs [(2, 16)]).running ∧ 15 < ((withRegs [(2, 16)]).reg 2).toNat := ⟨rfl, by decide, rfl, by decide⟩
theorem witness_KeyWaitTakesTheLowestKeyOrPolls :
    (pressing 15 State.reset).running ∧ (pressing 15 State.reset).keys[(15 : Reg)] = true ∧
    (∀ j : Reg, j < 15 → (pressing 15 State.reset).keys[j] = false) ∧ State.reset.running ∧
    ∀ k : Reg, State.reset.keys[k] = false := ⟨rfl, by decide, by decide, rfl, by decide⟩
theorem witness_TickCountsDownAndBeeps :
    (State.reset.setSt 1).st.toNat = 1 ∧ (State.reset.setSt 2).st.toNat ≠ 1 := ⟨rfl, by decide⟩
theorem witness_ResetSetsEveryPieceOfState : 80 ≤ 80 ∧ 80 ≤ 4095 := by decide
theorem witness_LoadCopiesTheImageOrRejectsIt :
    (List.replicate 3584 (0 : Byte)).length ≤ 3584 ∧ 3584 < (List.replicate 3585 (0 : Byte)).length := by
  simp only [List.length_replicate]
  decide
theorem witness_HaltedUntilReset :
    ({ haltedState with schedule := [.tick, .step, .load [1]] } : State).fault =
      some { cause := .stackUnderflow, pc0 := 512, word := 0x00EE } ∧
    ∀ e ∈ ({ haltedState with schedule := [.tick, .step, .load [1]] } : State).schedule, e ≠ Event.reset :=
  ⟨rfl, by decide⟩
theorem witness_StaleStackEntriesAreNeverObserved :
    SameLive State.reset { State.reset with stack := State.reset.stack.set 0 7 } :=
  ⟨rfl, fun _ h => absurd h (Nat.not_lt_zero _)⟩

/-! The statements whose one hypothesis is a machine that is running. -/

theorem witness_NopOnlyAdvances : State.reset.running := rfl
theorem witness_JumpsSetPc : State.reset.running := rfl
theorem witness_SkipsCompareAndSkip : State.reset.running := rfl
theorem witness_LoadsWriteTheRegister : State.reset.running := rfl
theorem witness_AddImmediateWrapsWithoutFlag : State.reset.running := rfl
theorem witness_LogicIsBitwiseWithoutFlag : State.reset.running := rfl
theorem witness_AddRegisterSetsCarry : State.reset.running := rfl
theorem witness_SubtractionsSetInvertedBorrow : State.reset.running := rfl
theorem witness_ShiftsMoveOneBitIntoTheFlag : State.reset.running := rfl
theorem witness_RandomByteIsMasked : State.reset.running := rfl
theorem witness_LoadIndexWritesI : State.reset.running := rfl
theorem witness_IndexArithmetic : State.reset.running := rfl
theorem witness_ClearScreenClearsEveryCell : State.reset.running := rfl
theorem witness_TimerMoves : State.reset.running := rfl

end Sys2Proof.Tests
end

section
/-! SUPPORT. Statements about the machine's state (spec/10_state.md): what an instruction changes and what it leaves,
the invariant of every event, and the canonical form of memory. Each instruction's outcome is said once, as its effect
or a fault that only sets the latch (`exec_cases`); the frames are lemmas about the effect, one per piece of state. -/

namespace Sys2Proof.Proofs

open Sys2Proof Sys2Proof.Machine Sys2Proof.Claims

/-! ### The outcome of an instruction: its effect, or a fault that only sets the latch -/

/-- pc after the key wait: past the instruction if a key is pressed, else back at it (R163). -/
def pcAfterPoll (s : State) : Word := s.lowestKey.elim s.pc fun _ => s.pc + 2

/-- V after the key wait: V[x] holds the lowest pressed key, if there is one (R163). -/
def regsAfterPoll (x : Reg) (s : State) : Vector Byte 16 :=
  s.lowestKey.elim s.v fun k => (s.setReg x (BitVec.ofNat 8 k.val)).v

/-- What an instruction does where it raises no fault, over the state at the start of the step. -/
def effect : Instr → State → State
  | .nop, s => s.advance
  | .cls, s => { s.advance with fb := Framebuffer.clear }
  | .ret, s => s.pop.2.setPc s.pop.1
  | .jp nnn, s => s.setPc (zextNNN nnn)
  | .call nnn, s => (s.push s.advance.pc).setPc (zextNNN nnn)
  | .seImm x nn, s => s.skipIf (s.reg x == nn)
  | .sneImm x nn, s => s.skipIf (s.reg x != nn)
  | .seReg x y, s => s.skipIf (s.reg x == s.reg y)
  | .ldImm x nn, s => s.advance.setReg x nn
  | .addImm x nn, s => s.advance.setReg x (s.reg x + nn)
  | .ldReg x y, s => s.advance.setReg x (s.reg y)
  | .or x y, s => s.advance.setReg x (s.reg x ||| s.reg y)
  | .and x y, s => s.advance.setReg x (s.reg x &&& s.reg y)
  | .xor x y, s => s.advance.setReg x (s.reg x ^^^ s.reg y)
  | .addReg x y, s => s.advance.setResultFlag x (s.reg x + s.reg y) (carryOut (s.reg x) (s.reg y))
  | .sub x y, s => s.advance.setResultFlag x (s.reg x - s.reg y) (noBorrow (s.reg x) (s.reg y))
  | .shr x _, s => s.advance.setResultFlag x (s.reg x >>> 1) (shiftedOutRight (s.reg x))
  | .subn x y, s => s.advance.setResultFlag x (s.reg y - s.reg x) (noBorrow (s.reg y) (s.reg x))
  | .shl x _, s => s.advance.setResultFlag x (s.reg x <<< 1) (shiftedOutLeft (s.reg x))
  | .sneReg x y, s => s.skipIf (s.reg x != s.reg y)
  | .ldI nnn, s => s.advance.setI (zextNNN nnn)
  | .jpV0 nnn, s => s.setPc (zextByte (s.reg 0) + zextNNN nnn)
  | .rnd x nn, s => s.advance.drawByte.2.setReg x (s.advance.drawByte.1 &&& nn)
  | .drw x y n, s => { s.advance with fb := (s.drawn x y n).1 }.setFlag (s.drawn x y n).2
  | .skp x, s => s.skipIf (s.key (Fin.ofNat 16 (s.reg x).toNat))
  | .sknp x, s => s.skipIf (!s.key (Fin.ofNat 16 (s.reg x).toNat))
  | .ldVxDt x, s => s.advance.setReg x s.dt
  | .ldVxK x, s => { s with pc := pcAfterPoll s, v := regsAfterPoll x s }
  | .ldDtVx x, s => s.advance.setDt (s.reg x)
  | .ldStVx x, s => s.advance.setSt (s.reg x)
  | .addI x, s => s.advance.setI (s.i + zextByte (s.reg x))
  | .ldF x, s => s.advance.setI (glyphAddr (s.reg x))
  | .ldB x, s => s.advance.storeBytes (s.effAddr 0) (bcdDigits (s.reg x))
  | .stRegs x, s => s.advance.storeBytes (s.effAddr 0) (s.regBlock x)
  | .ldRegs x, s => s.advance.setRegs 0 (s.loadBytes (s.effAddr 0) (x.val + 1))

theorem keyIndex_of_le {u : Byte} (h : u.toNat ≤ 15) : keyIndex u = some (Fin.ofNat 16 u.toNat) :=
  keyIndex_eq_some (Nat.mod_eq_of_lt (by omega)).symm

/-- An instruction whose conditions the state respects has its effect. -/
theorem exec_of_respects (i : Instr) (s : State) (h : s.respects i = true) : exec i s = .next (effect i s) := by
  cases i
  case ret => exact if_neg (by simpa [State.respects, Nat.pos_iff_ne_zero] using h)
  case call => exact if_neg (Nat.ne_of_lt (by simpa [State.respects] using h))
  case drw => exact if_pos (by simpa [State.respects] using h)
  case skp => simp [exec, execSkp, effect, keyIndex_of_le (of_decide_eq_true h)]
  case sknp => simp [exec, execSknp, effect, keyIndex_of_le (of_decide_eq_true h)]
  case ldVxK =>
    rcases s.lowestKey_cases with ⟨k, hk, -⟩ | ⟨hk, -⟩ <;>
      simp [exec, execLdVxK, effect, pcAfterPoll, regsAfterPoll, hk] <;> rfl
  case ldB => exact if_pos h
  case stRegs => exact if_pos h
  case ldRegs => exact if_pos h
  all_goals rfl

/-- An instruction whose conditions the state does not respect sets the latch, with the cause of R170's table and
its own word, and does nothing else (R172). -/
theorem exec_of_not_respects (i : Instr) (s : State) (h : s.respects i = false) :
    ∃ c, mayRaise i s c ∧ exec i s = .next (s.takeFault c (encode i)) := by
  cases i
  case ret => exact ⟨_, rfl, if_pos (by simpa [State.respects] using h)⟩
  case call =>
    have h16 : 16 ≤ s.sp.val := by simpa [State.respects] using h
    exact ⟨_, rfl, if_pos (by omega)⟩
  case drw => exact ⟨_, rfl, if_neg (by simpa [State.respects] using h)⟩
  case skp =>
    have hk := keyIndex_eq_none (Nat.lt_of_not_le (of_decide_eq_false h))
    exact ⟨_, rfl, by simp [exec, execSkp, hk]⟩
  case sknp =>
    have hk := keyIndex_eq_none (Nat.lt_of_not_le (of_decide_eq_false h))
    exact ⟨_, rfl, by simp [exec, execSknp, hk]⟩
  case ldB => exact ⟨_, rfl, if_neg (by simpa [State.respects] using h)⟩
  case stRegs => exact ⟨_, rfl, if_neg (by simpa [State.respects] using h)⟩
  case ldRegs => exact ⟨_, rfl, if_neg (by simpa [State.respects] using h)⟩
  all_goals cases h

/-- Everything an instruction can do: its effect, or a fault that only sets the latch. -/
theorem exec_cases {i : Instr} {s t : State} (h : exec i s = .next t) :
    (s.respects i = true ∧ t = effect i s) ∨ ∃ c, mayRaise i s c ∧ t = s.takeFault c (encode i) := by
  rcases hr : s.respects i
  · obtain ⟨c, hc, he⟩ := exec_of_not_respects i s hr
    exact .inr ⟨c, hc, Host.Outcome.next.inj (h.symm.trans he)⟩
  · exact .inl ⟨rfl, Host.Outcome.next.inj (h.symm.trans (exec_of_respects i s hr))⟩

/-- An instruction that leaves no fault latched had its effect. -/
theorem eq_effect_of_fault_none {i : Instr} {s t : State} (h : exec i s = .next t) (ht : t.fault = none) :
    s.respects i = true ∧ t = effect i s := by
  rcases exec_cases h with he | ⟨c, -, rfl⟩
  · exact he
  · cases ht

/-! ### Frames of the effect, one per piece of state -/

@[simp] theorem effect_keys (i : Instr) (s : State) : (effect i s).keys = s.keys := by
  cases i <;> simp [effect]

@[simp] theorem effect_fault (i : Instr) (s : State) : (effect i s).fault = s.fault := by
  cases i <;> simp [effect]

@[simp] theorem effect_font (i : Instr) (s : State) : (effect i s).font = s.font := by
  cases i <;> simp [effect]

@[simp] theorem effect_schedule (i : Instr) (s : State) : (effect i s).schedule = s.schedule := by
  cases i <;> simp [effect]

theorem effect_i {i : Instr} (h : ¬ writesI i) (s : State) : (effect i s).i = s.i := by
  cases i
  case ldI nnn => exact absurd (.inl ⟨nnn, rfl⟩) h
  case addI x => exact absurd (.inr (.inl ⟨x, rfl⟩)) h
  case ldF x => exact absurd (.inr (.inr ⟨x, rfl⟩)) h
  all_goals simp [effect]

theorem effect_sp_stack {i : Instr} (h : ¬ writesStack i) (s : State) :
    (effect i s).sp = s.sp ∧ (effect i s).stack = s.stack := by
  cases i
  case ret => exact absurd (.inl rfl) h
  case call nnn => exact absurd (.inr ⟨nnn, rfl⟩) h
  all_goals simp [effect]

theorem effect_dt {i : Instr} (h : ∀ x, i ≠ .ldDtVx x) (s : State) : (effect i s).dt = s.dt := by
  cases i
  case ldDtVx x => exact absurd rfl (h x)
  all_goals simp [effect]

theorem effect_st {i : Instr} (h : ∀ x, i ≠ .ldStVx x) (s : State) : (effect i s).st = s.st := by
  cases i
  case ldStVx x => exact absurd rfl (h x)
  all_goals simp [effect]

theorem effect_fb {i : Instr} (h : ¬ writesFb i) (s : State) : (effect i s).fb = s.fb := by
  cases i
  case cls => exact absurd (.inl rfl) h
  case drw x y n => exact absurd (.inr ⟨x, y, n, rfl⟩) h
  all_goals simp [effect]

theorem effect_draws {i : Instr} (h : ∀ x nn, i ≠ .rnd x nn) (s : State) : (effect i s).draws = s.draws := by
  cases i
  case rnd x nn => exact absurd rfl (h x nn)
  all_goals simp [effect]

theorem effect_mem {i : Instr} (h : ¬ writesMem i) (s : State) : (effect i s).mem = s.mem := by
  cases i
  case ldB x => exact absurd (.inl ⟨x, rfl⟩) h
  case stRegs x => exact absurd (.inr ⟨x, rfl⟩) h
  all_goals simp [effect]

/-- Settles O16: an effect's frames, and a fault changes only the latch. -/
theorem specialStateIsWrittenOnlyByItsInstructions :
    Obligations.SpecialStateIsWrittenOnlyByItsInstructions := by
  intro i s t _ h
  rcases exec_cases h with ⟨-, rfl⟩ | ⟨c, -, rfl⟩
  · exact ⟨(effect_i · s), (effect_sp_stack · s), (effect_dt · s), (effect_st · s), (effect_fb · s),
      (effect_draws · s), effect_keys i s, effect_font i s, effect_schedule i s⟩
  · simp

/-! ### Memory -/

/-- The two stores write inside the bytes they compute from I. -/
theorem effect_byteAt_outside {i : Instr} (hi : writesMem i) (s : State) {a : Nat}
    (ha : a < (storesTo i s).1 ∨ (storesTo i s).1 + (storesTo i s).2 ≤ a) :
    (effect i s).byteAt a = s.byteAt a := by
  obtain ⟨x, rfl⟩ | ⟨x, rfl⟩ := hi
  · exact State.byteAt_storeBytes_outside (s := s.advance) ha
  · exact State.byteAt_storeBytes_outside (s := s.advance) (by rwa [State.length_regBlock])

/-- Settles O17: a store's bytes lie inside its range, every other effect and every fault leave memory. -/
theorem onlyStoredBytesChange : Obligations.OnlyStoredBytesChange := by
  intro i s t _ h
  rcases exec_cases h with ⟨-, rfl⟩ | ⟨c, -, rfl⟩
  · exact ⟨fun hi a ha => effect_byteAt_outside hi s ha,
      fun hi a => State.byteAt_congr (effect_font i s) (effect_mem hi s) a⟩
  · exact ⟨fun _ a _ => rfl, fun _ a => rfl⟩

/-- An effect keeps memory canonical: a store runs only where its last address exists (R56). -/
theorem effect_mem_wf {i : Instr} {s : State} (hr : s.respects i = true) (h : Memory.wf s.font s.mem) :
    Memory.wf s.font (effect i s).mem := by
  by_cases hi : writesMem i
  · obtain ⟨x, rfl⟩ | ⟨x, rfl⟩ := hi
    · have hb := (s.inBounds_iff 2).1 hr
      refine State.storeBytes_wf _ s.advance _ h ?_
      simp only [bcdDigits, List.length_cons, List.length_nil, State.effAddr_eq]
      omega
    · have hb := (s.inBounds_iff x.val).1 hr
      refine State.storeBytes_wf _ s.advance _ h ?_
      rw [State.length_regBlock, State.effAddr_eq]
      omega
  · rwa [effect_mem hi]

/-! ### Registers -/

theorem reg_setReg_of_ne {x r : Reg} (h : ¬ r = x) (s : State) (u : Byte) : (s.setReg x u).reg r = s.reg r :=
  (State.reg_setReg s x r u).trans (if_neg h)

theorem reg_regsAfterPoll {x r : Reg} (h : r ≠ x) (s : State) : (regsAfterPoll x s)[r] = s.reg r := by
  unfold regsAfterPoll
  cases s.lowestKey with
  | none => rfl
  | some k => exact reg_setReg_of_ne h s _

theorem reg_setResultFlag_of_ne {x r : Reg} (h : ¬ (r = x ∨ r = 15)) (s : State) (u : Byte) (c : Bool) :
    (s.setResultFlag x u c).reg r = s.reg r :=
  (reg_setReg_of_ne (fun e => h (.inr e)) _ _).trans (reg_setReg_of_ne (fun e => h (.inl e)) s u)

/-- An effect leaves every register that is not a destination. -/
theorem effect_reg {i : Instr} {r : Reg} (h : ¬ writesReg i r) (s : State) : (effect i s).reg r = s.reg r := by
  cases i
  case ldImm | addImm | ldReg | or | and | xor | ldVxDt => exact reg_setReg_of_ne h s.advance _
  case rnd => exact reg_setReg_of_ne h s.advance.drawByte.2 _
  case addReg | sub | shr | subn | shl => exact reg_setResultFlag_of_ne h s.advance _ _
  case drw => exact reg_setReg_of_ne h _ _
  case ldVxK => exact reg_regsAfterPoll h s
  case ldRegs x =>
    have hx : x.val < r.val := Nat.lt_of_not_le h
    refine (State.reg_setRegs _ s.advance 0 r (by rw [State.length_loadBytes]; omega)).trans (dif_neg ?_)
    rw [State.length_loadBytes]
    omega
  all_goals exact State.reg_congr (by simp [effect]) r

/-- Settles O14: the effect's frame of V, and a fault changes only the latch. -/
theorem onlyDestinationRegistersChange : Obligations.OnlyDestinationRegistersChange := by
  intro i s t r _ h hw
  rcases exec_cases h with ⟨-, rfl⟩ | ⟨c, -, rfl⟩
  · exact effect_reg hw s
  · rfl

theorem flagByte_eq_zero_or_one (c : Bool) : flagByte c = 0 ∨ flagByte c = 1 := by cases c <;> simp [flagByte]

theorem vf_setFlag (s : State) (c : Bool) : (s.setFlag c).reg 15 = 0 ∨ (s.setFlag c).reg 15 = 1 := by
  rw [State.reg_setFlag, if_pos rfl]
  exact flagByte_eq_zero_or_one c

theorem vf_of_next_setFlag {s t : State} {c : Bool}
    (h : (Host.Outcome.next (s.setFlag c) : Host.Outcome State Fault Refusal) = .next t) :
    t.reg 15 = 0 ∨ t.reg 15 = 1 :=
  Host.Outcome.next.inj h ▸ vf_setFlag s c

/-- Settles O15: each of the six ends by setting the flag, DRW where it does not fault. -/
theorem flagWritersLeaveZeroOrOne : Obligations.FlagWritersLeaveZeroOrOne := by
  rintro s t x y n - (h | h | h | h | h | ⟨h, hf⟩)
  · exact vf_of_next_setFlag h
  · exact vf_of_next_setFlag h
  · exact vf_of_next_setFlag h
  · exact vf_of_next_setFlag h
  · exact vf_of_next_setFlag h
  · obtain ⟨-, rfl⟩ := eq_effect_of_fault_none h hf
    exact vf_setFlag _ _

/-! ### The pc (R23) -/

theorem toNat_add_two {w : Word} (h : w.toNat ≤ 4096) : (w + 2).toNat = w.toNat + 2 := by
  have h2 : (2 : Word).toNat = 2 := rfl
  rw [BitVec.toNat_add, h2]
  omega

theorem toNat_zextNNN (nnn : BitVec 12) : (zextNNN nnn).toNat = nnn.toNat :=
  BitVec.toNat_setWidth_of_le (by decide)

theorem toNat_zextByte_add_zextNNN (u : Byte) (nnn : BitVec 12) :
    (zextByte u + zextNNN nnn).toNat = u.toNat + nnn.toNat := by
  have hu : (zextByte u).toNat = u.toNat := BitVec.toNat_setWidth_of_le (by decide)
  rw [BitVec.toNat_add, hu, toNat_zextNNN]
  omega

theorem toNat_pc_skipIf {s : State} (h : s.pc.toNat ≤ 4094) {c : Bool} {p : Prop} [Decidable p]
    (hc : c = true ↔ p) : (s.skipIf c).pc.toNat = if p then s.pc.toNat + 4 else s.pc.toNat + 2 := by
  have h2 : (s.pc + 2).toNat = s.pc.toNat + 2 := toNat_add_two (by omega)
  have h4 : (s.pc + 2 + 2).toNat = s.pc.toNat + 2 + 2 := (toNat_add_two (by omega)).trans (congrArg (· + 2) h2)
  rw [State.skipIf_pc]
  simp only [hc]
  split
  · exact h4
  · exact h2

theorem toNat_pc_skipIf_not {s : State} (h : s.pc.toNat ≤ 4094) {c : Bool} {p : Prop} [Decidable p]
    (hc : c = true ↔ ¬ p) : (s.skipIf c).pc.toNat = if p then s.pc.toNat + 2 else s.pc.toNat + 4 :=
  (toNat_pc_skipIf h hc).trans (ite_not ..)

theorem toNat_pcAfterPoll {s : State} (h : s.pc.toNat ≤ 4094) (x : Reg) :
    (pcAfterPoll s).toNat = pcAfter (.ldVxK x) s := by
  rcases s.lowestKey_cases with ⟨k, hk, hp⟩ | ⟨hk, hn⟩
  · rw [pcAfterPoll, hk]
    exact (toNat_add_two (by omega)).trans (if_pos ⟨k, hp⟩).symm
  · rw [pcAfterPoll, hk]
    exact (if_neg fun ⟨k, hp⟩ => by simp [State.key, hn k] at hp).symm

/-- An effect leaves pc as R23's table says. -/
theorem toNat_pc_effect {s : State} (h : s.pc.toNat ≤ 4094) (i : Instr) :
    (effect i s).pc.toNat = pcAfter i s := by
  have h2 : (s.pc + 2).toNat = s.pc.toNat + 2 := toNat_add_two (by omega)
  cases i
  case jp => exact toNat_zextNNN _
  case call => exact toNat_zextNNN _
  case jpV0 => exact toNat_zextByte_add_zextNNN _ _
  case ret => rfl
  case seImm | seReg => exact toNat_pc_skipIf h beq_iff_eq
  case sneImm | sneReg => exact toNat_pc_skipIf_not h bne_iff_ne
  case skp => exact toNat_pc_skipIf h Iff.rfl
  case sknp => exact toNat_pc_skipIf_not h (by simp)
  case ldVxK x => exact toNat_pcAfterPoll h x
  all_goals exact (congrArg BitVec.toNat (by simp [effect])).trans h2

/-- Settles O13: without a fault the instruction had its effect, and the effect leaves pc as the table says. -/
theorem pcAfterEveryInstruction : Obligations.PcAfterEveryInstruction := by
  intro i s t _ hpc h ht
  obtain ⟨-, rfl⟩ := eq_effect_of_fault_none h ht
  exact toNat_pc_effect hpc i

/-! ### The invariant of every event -/

/-- R23's table stays below 4350: 255 + 4095 for JP_V0, and a popped entry is at most 4096. -/
theorem pcAfter_le {s : State} (hs : ∀ k : Reg, (s.stack[k]).toNat ≤ 4096) (hpc : s.pc.toNat ≤ 4094) (i : Instr) :
    pcAfter i s ≤ 4350 := by
  cases i
  case jp nnn | call nnn =>
    show nnn.toNat ≤ 4350
    omega
  case jpV0 nnn =>
    show (s.reg 0).toNat + nnn.toNat ≤ 4350
    omega
  case ret =>
    have hp : s.pop.1.toNat ≤ 4096 := hs ⟨s.sp.val - 1, by omega⟩
    exact hp.trans (by decide)
  case seImm | sneImm | seReg | sneReg | skp | sknp | ldVxK =>
    exact (ite_le_sup _ _ _).trans (sup_le (by omega) (by omega))
  all_goals
    show s.pc.toNat + 2 ≤ 4350
    omega

/-- Pushing an entry within the bound keeps every entry within it. -/
theorem push_stack_le {s : State} (hs : ∀ k : Reg, (s.stack[k]).toNat ≤ 4096) {w : Word} (hw : w.toNat ≤ 4096)
    (h : s.sp.val < 16) (k : Reg) : ((s.push w).stack[k]).toNat ≤ 4096 := by
  simp only [State.push_stack s w h, Fin.getElem_fin, Vector.getElem_set]
  split
  · exact hw
  · exact hs k

/-- An effect keeps stack entries at most 4096: CALL pushes an advanced pc. -/
theorem effect_stack_le {i : Instr} {s : State} (hr : s.respects i = true)
    (hs : ∀ k : Reg, (s.stack[k]).toNat ≤ 4096) (hpc : s.pc.toNat ≤ 4094) (k : Reg) :
    ((effect i s).stack[k]).toNat ≤ 4096 := by
  by_cases hi : writesStack i
  · obtain rfl | ⟨nnn, rfl⟩ := hi
    · exact hs k
    · have h2 : s.advance.pc.toNat = s.pc.toNat + 2 := toNat_add_two (by omega)
      exact push_stack_le hs (by omega) (of_decide_eq_true hr) k
  · rw [(effect_sp_stack hi s).2]
    exact hs k

theorem inv_effect {i : Instr} {s : State} (h : s.Inv) (hf : s.fault = none) (hpc : s.pc.toNat ≤ 4094)
    (hr : s.respects i = true) : (effect i s).Inv where
  memory := by rw [effect_font]; exact effect_mem_wf hr h.memory
  pc := by rw [toNat_pc_effect hpc]; exact pcAfter_le h.stack hpc i
  stack := effect_stack_le hr h.stack hpc
  latch f e := by rw [effect_fault, hf] at e; cases e

/-- A fault taken records pc and leaves the rest. -/
theorem inv_takeFault {s : State} (h : s.Inv) (c : Fault) (w : Word) : (s.takeFault c w).Inv where
  memory := h.memory
  pc := h.pc
  stack := h.stack
  latch _ e := Option.some.inj e ▸ rfl

/-- Both outcomes of an instruction keep the invariant. -/
theorem inv_exec {i : Instr} {s t : State} (h : s.Inv) (hf : s.fault = none) (hpc : s.pc.toNat ≤ 4094)
    (he : exec i s = .next t) : t.Inv := by
  rcases exec_cases he with ⟨hr, rfl⟩ | ⟨c, -, rfl⟩
  · exact inv_effect h hf hpc hr
  · exact inv_takeFault h c _

theorem inv_stepEvent {s t : State} (h : s.Inv) (he : stepEvent s = .next t) : t.Inv := by
  rcases stepEvent_cases s with ⟨f, -, hs⟩ | ⟨-, -, hs⟩ | ⟨-, -, -, hs⟩ | ⟨i, hf, hpc, -, hs⟩
  · cases hs.symm.trans he
    exact h
  · cases hs.symm.trans he
    exact inv_takeFault h _ _
  · cases hs.symm.trans he
    exact inv_takeFault h _ _
  · exact inv_exec h hf hpc (hs ▸ he)

/-- Whatever the font and the model's own fields, a machine at R35's values meets the invariant. -/
theorem inv_resetCore (s : State) : s.resetCore.Inv where
  memory := Memory.wf_nil s.font
  pc := by rw [State.resetCore_pc]; decide
  stack k := by simp [State.reset]
  latch f e := by rw [State.resetCore_fault] at e; cases e

theorem inv_load {s : State} (h : s.Inv) (data : List Byte) : (s.load data).Inv := by
  rcases s.load_cases data with ⟨hl, e⟩ | ⟨-, e⟩
  · rw [e]
    constructor
    · rw [State.storeBytes_font]
      exact State.storeBytes_wf data s 512 h.memory (by omega)
    all_goals simp only [State.storeBytes_pc, State.storeBytes_stack, State.storeBytes_fault]
    exacts [h.pc, h.stack, h.latch]
  · rwa [e]

theorem inv_deliver {s t : State} (h : s.Inv) (e : Event) (he : deliver e s = .next t) : t.Inv := by
  cases e with
  | reset => cases he; exact inv_resetCore s
  | load data => cases he; exact inv_load h data
  | step => exact inv_stepEvent h he
  | tick => cases he; exact ⟨h.memory, h.pc, h.stack, h.latch⟩
  | key k pressed => cases he; exact ⟨h.memory, h.pc, h.stack, h.latch⟩
  | display => cases he; exact h

/-- Settles O19: every event delivered keeps the invariant, and taking it off the schedule touches none of it. -/
theorem everyStepKeepsTheInvariant : Obligations.EveryStepKeepsTheInvariant := by
  intro s t h hstep
  have htake : s.takeEvent.Inv := ⟨h.memory, h.pc, h.stack, h.latch⟩
  exact inv_deliver htake s.nextEvent hstep

/-- Settles O20: the reset state is RESET applied to itself. -/
theorem resetMeetsTheInvariant : Obligations.ResetMeetsTheInvariant := inv_resetCore State.reset

/-- Settles O51: each piece of R35's table, memory by its reset contents. -/
theorem resetSetsEveryPieceOfState : Obligations.ResetSetsEveryPieceOfState := by
  intro s
  refine ⟨s.resetCore, rfl, by rw [State.resetCore_pc]; decide, fun r => ?_, rfl, rfl, fun k => ?_, rfl, rfl,
    fun k => ?_, fun p => ?_, fun a => dif_pos a.isLt, fun a ha _ => dif_neg (by omega), rfl, rfl⟩
  · simp [State.reg, State.reset]
  · simp [State.reset]
  · simp [State.reset]
  · simp [Framebuffer.get, State.reset]

/-! ### The canonical form of memory -/

/-- A read gives a listed cell or the unlisted contents. -/
theorem mem_read_or_unlisted (font : Font) (m : Memory) (a : Nat) :
    (a, Memory.read font m a) ∈ m ∨ Memory.read font m a = Memory.unlisted font a := by
  induction m with
  | nil => exact .inr rfl
  | cons c rest ih =>
    rw [Memory.read]
    split
    · next h => exact .inl (h ▸ List.mem_cons_self)
    · exact ih.imp_left (List.mem_cons_of_mem c)

/-- With addresses strictly rising, a listed cell is what its address reads as. -/
theorem read_of_mem (font : Font) {m : Memory} (hm : m.Pairwise fun c d => c.1 < d.1) {c : Host.Cell} (hc : c ∈ m) :
    Memory.read font m c.1 = c.2 := by
  induction m with
  | nil => cases hc
  | cons d rest ih =>
    obtain ⟨hd, hrest⟩ := List.pairwise_cons.1 hm
    rw [Memory.read]
    rcases List.mem_cons.1 hc with rfl | hc
    · exact if_pos rfl
    · exact (if_neg (Nat.ne_of_gt (hd c hc))).trans (ih hrest hc)

/-- The cells of a canonical memory are determined by its reads. -/
theorem mem_iff_of_wf {font : Font} {m : Memory} (h : Memory.wf font m) (c : Host.Cell) :
    c ∈ m ↔ Memory.read font m c.1 = c.2 ∧ c.2 ≠ Memory.unlisted font c.1 := by
  constructor
  · exact fun hc => ⟨read_of_mem font h.1 hc, (h.2 c hc).2⟩
  · rintro ⟨hr, hne⟩
    have hmem := (mem_read_or_unlisted font m c.1).resolve_right (hr ▸ hne)
    rwa [hr] at hmem

/-- Settles O41: the two lists have the same cells, and a strictly rising list is determined by its members. -/
theorem canonicalMemoriesThatReadAlikeAreEqual : Obligations.CanonicalMemoriesThatReadAlikeAreEqual := by
  intro font m n hm hn hread
  have hirrefl : Std.Irrefl fun c d : Host.Cell => c.1 < d.1 := ⟨fun c => Nat.lt_irrefl c.1⟩
  have hantisymm : Std.Antisymm fun c d : Host.Cell => c.1 < d.1 :=
    ⟨fun _ _ hcd hdc => absurd hdc (Nat.lt_asymm hcd)⟩
  refine List.Pairwise.eq_of_mem_iff hm.1 hn.1 fun c => ?_
  rw [mem_iff_of_wf hm, mem_iff_of_wf hn, hread]

/-! ### Stack entries at or above sp are never observed -/

/-- The same machine with another call stack. -/
def withStack (s : State) (st : Vector Word 16) : State := { s with stack := st }

theorem sameLive_withStack {s : State} {st : Vector Word 16}
    (h : ∀ k : Reg, k.val < s.sp.val → st[k] = s.stack[k]) : SameLive s (withStack s st) :=
  ⟨rfl, h⟩

theorem exists_withStack_of_sameLive {s t : State} (h : SameLive s t) :
    ∃ st, t = withStack s st ∧ ∀ k : Reg, k.val < s.sp.val → st[k] = s.stack[k] :=
  ⟨t.stack, h⟩

theorem sameLive_refl (s : State) : SameLive s s := ⟨rfl, fun _ _ => rfl⟩

/-- Alike but for the stack, and with live entries as they were: still the same live state. -/
theorem sameLive_of_eq_withStack {s u v : State} {st : Vector Word 16}
    (h : ∀ k : Reg, k.val < s.sp.val → st[k] = s.stack[k]) (hsp : u.sp = s.sp) (hst : u.stack = s.stack)
    (hv : v = withStack u st) : SameLive u v := by
  rw [hv]
  exact sameLive_withStack (by rwa [hsp, hst])

theorem setRegs_withStack (bs : List Byte) : ∀ (s : State) (st : Vector Word 16) (k : Nat),
    (withStack s st).setRegs k bs = withStack (s.setRegs k bs) st := by
  induction bs with
  | nil => intro s st k; rfl
  | cons u rest ih => intro s st k; exact ih (s.setReg (Fin.ofNat 16 k) u) st (k + 1)

theorem storeBytes_withStack (bs : List Byte) : ∀ (s : State) (st : Vector Word 16) (a : Nat),
    (withStack s st).storeBytes a bs = withStack (s.storeBytes a bs) st := by
  induction bs with
  | nil => intro s st a; rfl
  | cons u rest ih => intro s st a; exact ih (s.setByte a u) st (a + 1)

theorem skipIf_withStack (s : State) (st : Vector Word 16) (c : Bool) :
    (withStack s st).skipIf c = withStack (s.skipIf c) st := by
  cases c <;> rfl

/-- An instruction that does not write the stack does not read it either. -/
theorem effect_withStack {i : Instr} (h : ¬ writesStack i) (s : State) (st : Vector Word 16) :
    effect i (withStack s st) = withStack (effect i s) st := by
  cases i
  case ret => exact absurd (.inl rfl) h
  case call nnn => exact absurd (.inr ⟨nnn, rfl⟩) h
  case seImm | sneImm | seReg | sneReg | skp | sknp => exact skipIf_withStack s st _
  case ldB | stRegs => exact storeBytes_withStack _ s.advance st _
  case ldRegs => exact setRegs_withStack _ s.advance st 0
  all_goals rfl

theorem respects_withStack (i : Instr) (s : State) (st : Vector Word 16) :
    (withStack s st).respects i = s.respects i := by
  cases i <;> rfl

/-- RET pops the entry below sp, which is live. -/
theorem sameLive_effect_ret {s t : State} (h : SameLive s t) (hsp : 0 < s.sp.val) :
    SameLive (effect .ret s) (effect .ret t) := by
  obtain ⟨st, rfl, hlive⟩ := exists_withStack_of_sameLive h
  have htop : (withStack s st).pop.1 = s.pop.1 := hlive ⟨s.sp.val - 1, by omega⟩ (Nat.sub_lt hsp Nat.one_pos)
  have he : effect .ret (withStack s st) = withStack (effect .ret s) st :=
    congrArg (withStack s st).pop.2.setPc htop
  rw [he]
  exact sameLive_withStack fun k hk => hlive k (Nat.lt_of_lt_of_le hk (Nat.sub_le _ _))

/-- CALL writes the entry that becomes live. -/
theorem sameLive_effect_call {s t : State} (h : SameLive s t) (hsp : s.sp.val < 16) (nnn : BitVec 12) :
    SameLive (effect (.call nnn) s) (effect (.call nnn) t) := by
  obtain ⟨st, rfl, hlive⟩ := exists_withStack_of_sameLive h
  have hpush : ∀ w, (withStack s st).push w = withStack (s.push w) (st.set s.sp.val w hsp) := fun w => by
    simp [State.push, withStack, hsp]
  have he : effect (.call nnn) (withStack s st) =
      withStack (effect (.call nnn) s) (st.set s.sp.val s.advance.pc hsp) :=
    congrArg (State.setPc · (zextNNN nnn)) (hpush s.advance.pc)
  rw [he]
  refine sameLive_withStack fun k hk => ?_
  have hk' : k.val < s.sp.val + 1 := State.push_sp s s.advance.pc hsp ▸ hk
  have hst : (effect (.call nnn) s).stack = s.stack.set s.sp.val s.advance.pc hsp :=
    State.push_stack s s.advance.pc hsp
  simp only [hst, Fin.getElem_fin, Vector.getElem_set]
  split
  · rfl
  · next hne => exact hlive k (by omega)

theorem sameLive_effect {i : Instr} {s t : State} (h : SameLive s t) (hr : s.respects i = true) :
    SameLive (effect i s) (effect i t) := by
  by_cases hi : writesStack i
  · obtain rfl | ⟨nnn, rfl⟩ := hi
    · exact sameLive_effect_ret h (of_decide_eq_true hr)
    · exact sameLive_effect_call h (of_decide_eq_true hr) nnn
  · obtain ⟨st, rfl, hlive⟩ := exists_withStack_of_sameLive h
    obtain ⟨hsp, hst⟩ := effect_sp_stack hi s
    exact sameLive_of_eq_withStack hlive hsp hst (effect_withStack hi s st)

/-- The cause an instruction raises is determined by the registers and I. -/
theorem mayRaise_withStack {i : Instr} {s : State} {st : Vector Word 16} {c d : Fault} (hc : mayRaise i s c)
    (hd : mayRaise i (withStack s st) d) : d = c := by
  cases i
  case ret | call | skp | sknp | drw | ldB | stRegs | ldRegs => exact Eq.trans hd (Eq.symm hc)
  all_goals cases hc

theorem sameLive_exec {s t : State} (h : SameLive s t) (i : Instr) :
    ∃ s' t', exec i s = .next s' ∧ exec i t = .next t' ∧ SameLive s' t' := by
  obtain ⟨st, rfl, hlive⟩ := exists_withStack_of_sameLive h
  have hrt := respects_withStack i s st
  rcases hr : s.respects i
  · obtain ⟨c, hc, hs⟩ := exec_of_not_respects i s hr
    obtain ⟨d, hd, ht⟩ := exec_of_not_respects i (withStack s st) (hrt.trans hr)
    obtain rfl := mayRaise_withStack hc hd
    exact ⟨_, _, hs, ht, sameLive_withStack hlive⟩
  · exact ⟨_, _, exec_of_respects i s hr, exec_of_respects i _ (hrt.trans hr), sameLive_effect h hr⟩

/-! The four outcomes of a STEP, each from the condition that selects it (R90). -/

theorem stepEvent_of_halted {s : State} {f : FaultRecord} (hf : s.fault = some f) : stepEvent s = .next s := by
  simp [stepEvent, hf]

theorem stepEvent_of_pc_gt {s : State} (hf : s.fault = none) (hp : 4094 < s.pc.toNat) :
    stepEvent s = .next (s.takeFault (.memoryBounds (max s.pc.toNat 4096)) 0) := by
  simp [stepEvent, hf, State.fetchable, hp]

theorem stepEvent_of_unsupported {s : State} (hf : s.fault = none) (hp : s.pc.toNat ≤ 4094)
    (hd : decodeWord s.fetchWord = none) :
    stepEvent s = .next (s.takeFault (.unsupportedInstruction s.fetchWord) s.fetchWord) := by
  simp [stepEvent, hf, State.fetchable, hp, hd]

theorem stepEvent_of_decoded {s : State} {i : Instr} (hf : s.fault = none) (hp : s.pc.toNat ≤ 4094)
    (hd : decodeWord s.fetchWord = some i) : stepEvent s = exec i s := by
  simp [stepEvent, hf, State.fetchable, hp, hd]

/-- The STEP cycle selects its outcome by the latch, pc and memory, which the two machines share. -/
theorem sameLive_stepEvent {s t : State} (h : SameLive s t) :
    ∃ s' t', stepEvent s = .next s' ∧ stepEvent t = .next t' ∧ SameLive s' t' := by
  obtain ⟨st, rfl, hlive⟩ := exists_withStack_of_sameLive h
  rcases stepEvent_cases s with ⟨f, hf, hs⟩ | ⟨hf, hp, hs⟩ | ⟨hf, hp, hd, hs⟩ | ⟨i, hf, hp, hd, hs⟩
  · exact ⟨_, _, hs, stepEvent_of_halted (s := withStack s st) hf, h⟩
  · exact ⟨_, _, hs, stepEvent_of_pc_gt (s := withStack s st) hf hp, sameLive_withStack hlive⟩
  · exact ⟨_, _, hs, stepEvent_of_unsupported (s := withStack s st) hf hp hd, sameLive_withStack hlive⟩
  · obtain ⟨s', t', hs', ht', h'⟩ := sameLive_exec h i
    exact ⟨s', t', hs.trans hs', (stepEvent_of_decoded (s := withStack s st) hf hp hd).trans ht', h'⟩

theorem load_withStack (s : State) (st : Vector Word 16) (data : List Byte) :
    (withStack s st).load data = withStack (s.load data) st := by
  unfold State.load
  split
  · exact storeBytes_withStack data s st _
  · rfl

@[simp] theorem load_sp (s : State) (data : List Byte) : (s.load data).sp = s.sp := by
  rcases s.load_cases data with ⟨-, e⟩ | ⟨-, e⟩ <;> simp [e]

@[simp] theorem load_stack (s : State) (data : List Byte) : (s.load data).stack = s.stack := by
  rcases s.load_cases data with ⟨-, e⟩ | ⟨-, e⟩ <;> simp [e]

theorem sameLive_deliver {s t : State} (h : SameLive s t) (e : Event) :
    ∃ s' t', deliver e s = .next s' ∧ deliver e t = .next t' ∧ SameLive s' t' := by
  obtain ⟨st, rfl, hlive⟩ := exists_withStack_of_sameLive h
  cases e with
  | reset => exact ⟨_, _, rfl, rfl, sameLive_refl s.resetCore⟩
  | load data =>
    exact ⟨_, _, rfl, rfl,
      sameLive_of_eq_withStack hlive (load_sp s data) (load_stack s data) (load_withStack s st data)⟩
  | step => exact sameLive_stepEvent h
  | tick => exact ⟨_, _, rfl, rfl, sameLive_withStack (s := s.tick) hlive⟩
  | key k pressed => exact ⟨_, _, rfl, rfl, sameLive_withStack (s := s.setKey k pressed) hlive⟩
  | display => exact ⟨_, _, rfl, rfl, h⟩

theorem reply_step {s s' : State} (h : stepEvent s = .next s') : reply .step s = stepReply s' := by
  simp only [reply, h]

/-- What an event answers rests on the latch, ST and the framebuffer, never on the stack. -/
theorem sameLive_reply {s t : State} (h : SameLive s t) (e : Event) : reply e s = reply e t := by
  cases e with
  | step =>
    obtain ⟨s', t', hs, ht, h'⟩ := sameLive_stepEvent h
    obtain ⟨st, rfl, -⟩ := exists_withStack_of_sameLive h'
    exact (reply_step hs).trans (reply_step ht).symm
  | reset | load | tick | key | display =>
    obtain ⟨st, rfl, -⟩ := exists_withStack_of_sameLive h
    rfl

/-- Settles O55: the two machines issue the same event, and no event's step or answer rests on a stale entry. -/
theorem staleStackEntriesAreNeverObserved : Obligations.StaleStackEntriesAreNeverObserved := by
  intro s t h
  obtain ⟨st, rfl, hlive⟩ := exists_withStack_of_sameLive h
  have htake : SameLive s.takeEvent (withStack s st).takeEvent := sameLive_withStack (s := s.takeEvent) hlive
  obtain ⟨s', t', hs, ht, h'⟩ := sameLive_deliver htake s.nextEvent
  exact ⟨s', t', hs, ht, h', sameLive_reply h s.nextEvent⟩

end Sys2Proof.Proofs
end

section
/-! SUPPORT. Memory holds code and data alike (spec/20_memory.md R51, R62): what a store over the word at pc makes the
next fetch read. -/

namespace Sys2Proof.Proofs

open Sys2Proof Sys2Proof.Machine Sys2Proof.Claims

/-- A store that begins at pc decides the word at pc: its first two bytes, the high one first. -/
theorem toNat_fetchWord_storeBytes_pc (s : State) {bs : List Byte} (h : 1 < bs.length) :
    (s.storeBytes s.pc.toNat bs).fetchWord.toNat = bs[0].toNat * 256 + bs[1].toNat := by
  have hhi : (s.storeBytes s.pc.toNat bs).byteAt s.pc.toNat = bs[0] :=
    State.byteAt_storeBytes_inside (k := 0) (Nat.zero_lt_of_lt h)
  have hlo : (s.storeBytes s.pc.toNat bs).byteAt (s.pc.toNat + 1) = bs[1] := State.byteAt_storeBytes_inside h
  rw [State.fetchWord_toNat, State.storeBytes_pc, hhi, hlo]

/-- ST_REGS with I at the next instruction stores its block where pc points after the step. -/
theorem effect_stRegs_of_i_eq_next_pc {s : State} (hi : s.i = s.pc + 2) (x : Reg) :
    effect (.stRegs x) s = s.advance.storeBytes s.advance.pc.toNat (s.regBlock x) :=
  congrArg (fun w : Word => s.advance.storeBytes w.toNat (s.regBlock x)) hi

/-- Settles O40: the block begins at the new pc with V[0] and V[1]. -/
theorem storedBytesAreFetchedNext : Obligations.StoredBytesAreFetchedNext := by
  intro x s _ hx hb hi
  have hr : s.respects (.stRegs x) = true := (s.inBounds_iff x.val).2 hb
  have hlen : 1 < (s.regBlock x).length := by rw [State.length_regBlock]; omega
  refine ⟨_, exec_of_respects (.stRegs x) s hr, ?_⟩
  rw [effect_stRegs_of_i_eq_next_pc hi, toNat_fetchWord_storeBytes_pc s.advance hlen,
    State.getElem_regBlock, State.getElem_regBlock]
  rfl

end Sys2Proof.Proofs
end

section
/-! SUPPORT. Statements about the words of the machine (spec/30_encoding.md): the encoder and the decoder undo each other
(R70 to R76), the decoder is the opcode table (R75), and the words it rejects are R79's six groups. -/

namespace Sys2Proof.Proofs

open Sys2Proof Sys2Proof.Machine Sys2Proof.Claims Sys2Proof.Laws

/-! ### Decode of encode -/

theorem toNat_ofNat_of_heightFits {n : Nat} (h : heightFits n = true) : (BitVec.ofNat 4 n).toNat = n := by
  have hn : n ≤ 15 := of_decide_eq_true h
  rw [BitVec.toNat_ofNat]
  omega

/-- Decoding the word of an instruction gives it back, by the format of its word (R72). -/
theorem decodeWord_encode (i : Instr) (h : i.wellFormed = true) : decodeWord (encode i) = some i := by
  cases i
  case nop | cls | ret => rfl
  case jp | call | ldI | jpV0 | seImm | sneImm | ldImm | addImm | rnd | seReg | sneReg => simp [encode, decodeWord]
  case drw x y n => simp [encode, decodeWord, toNat_ofNat_of_heightFits h]
  case skp | sknp => simp [encode, decodeWord, decodeE]
  case ldVxDt | ldVxK | ldDtVx | ldStVx | addI | ldF | ldB | stRegs | ldRegs => simp [encode, decodeWord, decodeF]
  case ldReg | or | and | xor | addReg | sub | shr | subn | shl => simp [encode, decodeWord, decode8]

/-- The decoder on bytes reads the two bytes of a word that decodes, and leaves the others (R70). -/
theorem decodeBytes_bytesOfWord {w : Word} {i : Instr} (h : decodeWord w = some i) (rest : List Byte) :
    decodeBytes (bytesOfWord w ++ rest) = .instr i rest := by
  simp [bytesOfWord, decodeBytes, h]

/-- Settles O2: the decoder on words undoes the encoder, and the decoder on bytes is that one on the first two bytes. -/
theorem decodeOfEncodeIsTheInstruction : Obligations.DecodeOfEncodeIsTheInstruction := by
  intro i hi
  have hword : decodeWord (encode i) = some i := decodeWord_encode i hi
  exact ⟨hword, decodeBytes_bytesOfWord hword⟩

/-- Settles O5: each of the words is the encoding of its instruction. -/
theorem writtenOutWordsDecode : Obligations.WrittenOutWordsDecode :=
  ⟨decodeWord_encode (.jp 0x234) rfl, decodeWord_encode (.ldImm 10 0x2B) rfl, decodeWord_encode (.addReg 1 2) rfl,
    decodeWord_encode (.drw 0 1 5) rfl, decodeWord_encode (.skp 2) rfl, decodeWord_encode (.stRegs 3) rfl⟩

/-! ### Encode of decode -/

/-! A word is put together from the fields the decoder read and the ones it compared. -/

theorem wordNNN_of_fields {w : Word} {op : Nibble} (hop : fieldD1 w = op) : wordNNN op (fieldNNN w) = w :=
  hop ▸ wordNNN_fields w

theorem wordXNN_of_fields {w : Word} {op : Nibble} {nn : Byte} (hop : fieldD1 w = op) (hnn : fieldNN w = nn) :
    wordXNN op (fieldX w) nn = w :=
  hop ▸ hnn ▸ wordXNN_fields w

theorem wordXYN_of_fields {w : Word} {op n : Nibble} (hop : fieldD1 w = op) (hn : fieldN w = n) :
    wordXYN op (fieldX w) (fieldY w) n = w :=
  hop ▸ hn ▸ wordXYN_fields w

/-- An instruction that is well-formed and whose word this is. -/
def IsEncodingOf (w : Word) (i : Instr) : Prop := i.wellFormed = true ∧ encode i = w

theorem isEncodingOf_of_decode0 {w : Word} {i : Instr} (h : decode0 w = some i) : IsEncodingOf w i := by
  unfold decode0 at h
  split_ifs at h with hw hw hw <;> cases h <;> exact ⟨rfl, hw.symm⟩

theorem isEncodingOf_of_decode8 {w : Word} {i : Instr} (hop : fieldD1 w = 0x8) (h : decode8 w = some i) :
    IsEncodingOf w i := by
  unfold decode8 at h
  split at h <;> cases h <;> exact ⟨rfl, wordXYN_of_fields hop ‹_›⟩

theorem isEncodingOf_of_decodeE {w : Word} {i : Instr} (hop : fieldD1 w = 0xE) (h : decodeE w = some i) :
    IsEncodingOf w i := by
  unfold decodeE at h
  split at h <;> cases h <;> exact ⟨rfl, wordXNN_of_fields hop ‹_›⟩

theorem isEncodingOf_of_decodeF {w : Word} {i : Instr} (hop : fieldD1 w = 0xF) (h : decodeF w = some i) :
    IsEncodingOf w i := by
  unfold decodeF at h
  split at h <;> cases h <;> exact ⟨rfl, wordXNN_of_fields hop ‹_›⟩

/-- The height DRW reads from its word fits, and is the word's N. -/
theorem isEncodingOf_drw {w : Word} (hop : fieldD1 w = 0xD) :
    IsEncodingOf w (.drw (fieldX w) (fieldY w) (fieldN w).toNat) := by
  refine ⟨decide_eq_true (Nat.le_of_lt_succ (fieldN w).isLt), ?_⟩
  show wordXYN 0xD _ _ (BitVec.ofNat 4 (fieldN w).toNat) = w
  exact wordXYN_of_fields hop (by simp)

theorem nibble_cases (d : Nibble) :
    d = 0x0 ∨ d = 0x1 ∨ d = 0x2 ∨ d = 0x3 ∨ d = 0x4 ∨ d = 0x5 ∨ d = 0x6 ∨ d = 0x7 ∨ d = 0x8 ∨ d = 0x9 ∨ d = 0xA ∨
      d = 0xB ∨ d = 0xC ∨ d = 0xD ∨ d = 0xE ∨ d = 0xF := by
  revert d
  decide

/-- A word that decodes is the encoding of what it decodes to. The case `h_k` is that of d1 = k - 1. -/
theorem isEncodingOf_of_decodeWord {w : Word} {i : Instr} (h : decodeWord w = some i) : IsEncodingOf w i := by
  unfold decodeWord at h
  split at h
  case h_1 => exact isEncodingOf_of_decode0 h
  case h_2 hop | h_3 hop | h_11 hop | h_12 hop => cases h; exact ⟨rfl, wordNNN_of_fields hop⟩
  case h_4 hop | h_5 hop | h_7 hop | h_8 hop | h_13 hop => cases h; exact ⟨rfl, wordXNN_of_fields hop rfl⟩
  case h_6 hop | h_10 hop =>
    split_ifs at h with hn
    cases h
    exact ⟨rfl, wordXYN_of_fields hop hn⟩
  case h_9 hop => exact isEncodingOf_of_decode8 hop h
  case h_14 hop => cases h; exact isEncodingOf_drw hop
  case h_15 hop => exact isEncodingOf_of_decodeE hop h
  case h_16 =>
    have hd := nibble_cases (fieldD1 w)
    have hop : fieldD1 w = 0xF := by tauto
    exact isEncodingOf_of_decodeF hop h

/-- Settles O3: what a word decodes to is well-formed and has it as its encoding. -/
theorem encodeOfDecodeIsTheWord : Obligations.EncodeOfDecodeIsTheWord :=
  fun _ _ h => isEncodingOf_of_decodeWord h

/-! ### The unsupported words -/

theorem decode0_eq_none_iff (w : Word) : decode0 w = none ↔ w ≠ 0x0000 ∧ w ≠ 0x00E0 ∧ w ≠ 0x00EE := by
  unfold decode0
  split_ifs <;> simp_all

theorem decode8_eq_none_iff (w : Word) :
    decode8 w = none ↔ (fieldN w).toNat ∈ [0x8, 0x9, 0xA, 0xB, 0xC, 0xD, 0xF] := by
  unfold decode8
  generalize fieldN w = n
  rcases nibble_cases n with
    rfl | rfl | rfl | rfl | rfl | rfl | rfl | rfl | rfl | rfl | rfl | rfl | rfl | rfl | rfl | rfl <;> simp

theorem decodeE_eq_none_iff (w : Word) : decodeE w = none ↔ (fieldNN w).toNat ∉ [0x9E, 0xA1] := by
  unfold decodeE
  split <;> simp_all [← BitVec.toNat_inj]

theorem decodeF_eq_none_iff (w : Word) :
    decodeF w = none ↔ (fieldNN w).toNat ∉ [0x07, 0x0A, 0x15, 0x18, 0x1E, 0x29, 0x33, 0x55, 0x65] := by
  unfold decodeF
  split <;> simp_all [← BitVec.toNat_inj]

/-- R79's groups, each as the major opcode and what the decoder makes of the rest of the word. -/
theorem inUnsupportedGroup_iff (w : Word) : inUnsupportedGroup w ↔
    (fieldD1 w = 0x0 ∧ decode0 w = none) ∨ (fieldD1 w = 0x5 ∧ fieldN w ≠ 0) ∨ (fieldD1 w = 0x8 ∧ decode8 w = none) ∨
    (fieldD1 w = 0x9 ∧ fieldN w ≠ 0) ∨ (fieldD1 w = 0xE ∧ decodeE w = none) ∨ (fieldD1 w = 0xF ∧ decodeF w = none) := by
  simp only [inUnsupportedGroup, decode0_eq_none_iff, decode8_eq_none_iff, decodeE_eq_none_iff, decodeF_eq_none_iff,
    ne_eq, ← BitVec.toNat_inj, fieldD1_toNat, fieldN_toNat, fieldNN_toNat]
  rfl

/-- Settles O4: for each major opcode the decoder rejects what the group of that opcode holds, if it has one. -/
theorem unsupportedWordsAreTheSixGroups : Obligations.UnsupportedWordsAreTheSixGroups := by
  intro w
  rw [inUnsupportedGroup_iff]
  rcases nibble_cases (fieldD1 w) with
    hop | hop | hop | hop | hop | hop | hop | hop | hop | hop | hop | hop | hop | hop | hop | hop <;>
    simp [decodeWord, hop]

/-- Settles O8: a word of the six groups does not decode, and the STEP cycle latches it. -/
theorem unsupportedWordLatchesItself : Obligations.UnsupportedWordLatchesItself := by
  intro s hstep hrun hpc hw
  have hd : decodeWord s.takeEvent.fetchWord = none := (unsupportedWordsAreTheSixGroups s.fetchWord).2 hw
  exact (step_of_nextEvent hstep).trans (stepEvent_of_unsupported hrun hpc hd)

/-! ### The opcode table -/

/-! What each of the table's four masks keeps of a word. -/

theorem and_FFFF_eq_iff (w v : Word) : w &&& 0xFFFF = v ↔ w = v := by
  rw [show w &&& 0xFFFF = w from BitVec.and_allOnes]

theorem nibble_and_F (n : Nibble) : n &&& 0xF = n := BitVec.and_allOnes

theorem and_F000 (w : Word) : w &&& 0xF000 = wordNNN (fieldD1 w) 0 := by
  calc w &&& 0xF000
    _ = wordNNN (fieldD1 w) (fieldNNN w) &&& wordNNN 0xF 0#12 := by rw [wordNNN_fields]; rfl
    _ = wordNNN (fieldD1 w &&& 0xF) (fieldNNN w &&& 0#12) := BitVec.and_append
    _ = wordNNN (fieldD1 w) 0 := by rw [nibble_and_F, BitVec.and_zero]; rfl

theorem and_F0FF (w : Word) : w &&& 0xF0FF = wordXNN (fieldD1 w) 0 (fieldNN w) := by
  calc w &&& 0xF0FF
    _ = wordXNN (fieldD1 w) (fieldX w) (fieldNN w) &&& wordXNN 0xF 0 0xFF := by rw [wordXNN_fields]; rfl
    _ = (fieldD1 w &&& 0xF) ++ (regNibble (fieldX w) &&& 0#4) ++ (fieldNN w &&& BitVec.allOnes 8) := by
      rw [← BitVec.and_append, ← BitVec.and_append]; rfl
    _ = wordXNN (fieldD1 w) 0 (fieldNN w) := by rw [nibble_and_F, BitVec.and_zero, BitVec.and_allOnes]; rfl

theorem and_F00F (w : Word) : w &&& 0xF00F = wordXYN (fieldD1 w) 0 0 (fieldN w) := by
  calc w &&& 0xF00F
    _ = wordXYN (fieldD1 w) (fieldX w) (fieldY w) (fieldN w) &&& wordXYN 0xF 0 0 0xF := by rw [wordXYN_fields]; rfl
    _ = (fieldD1 w &&& 0xF) ++ (regNibble (fieldX w) &&& 0#4) ++ (regNibble (fieldY w) &&& 0#4) ++
        (fieldN w &&& 0xF) := by
      rw [← BitVec.and_append, ← BitVec.and_append, ← BitVec.and_append]; rfl
    _ = wordXYN (fieldD1 w) 0 0 (fieldN w) := by
      rw [nibble_and_F, nibble_and_F, BitVec.and_zero, BitVec.and_zero]; rfl

theorem and_F000_eq_iff (w : Word) (op : Nibble) : w &&& 0xF000 = wordNNN op 0 ↔ fieldD1 w = op := by
  rw [and_F000]
  exact ⟨fun h => by simpa using congrArg fieldD1 h, fun hop => hop ▸ rfl⟩

theorem and_F0FF_eq_iff (w : Word) (op : Nibble) (nn : Byte) :
    w &&& 0xF0FF = wordXNN op 0 nn ↔ fieldD1 w = op ∧ fieldNN w = nn := by
  rw [and_F0FF]
  exact ⟨fun h => ⟨by simpa using congrArg fieldD1 h, by simpa using congrArg fieldNN h⟩,
    fun ⟨hop, hnn⟩ => hop ▸ hnn ▸ rfl⟩

theorem and_F00F_eq_iff (w : Word) (op n : Nibble) :
    w &&& 0xF00F = wordXYN op 0 0 n ↔ fieldD1 w = op ∧ fieldN w = n := by
  rw [and_F00F]
  exact ⟨fun h => ⟨by simpa using congrArg fieldD1 h, by simpa using congrArg fieldN h⟩,
    fun ⟨hop, hn⟩ => hop ▸ hn ▸ rfl⟩

/-- Every instruction has a row, and a word matches it iff it holds the instruction's fixed fields. -/
theorem exists_row (i : Instr) :
    ∃ r ∈ opcodeRows, r.name = i.mnemonic ∧ ∀ w : Word, w &&& r.mask = r.value ↔ fixedFields w i := by
  cases i
  case nop | cls | ret => exact ⟨⟨_, _, 0xFFFF⟩, by decide, rfl, fun w => and_FFFF_eq_iff w _⟩
  case jp | call | ldI | jpV0 | seImm | sneImm | ldImm | addImm | rnd | drw =>
    exact ⟨⟨_, _, 0xF000⟩, by decide, rfl, fun w => and_F000_eq_iff w _⟩
  case seReg | sneReg | ldReg | or | and | xor | addReg | sub | shr | subn | shl =>
    exact ⟨⟨_, _, 0xF00F⟩, by decide, rfl, fun w => and_F00F_eq_iff w _ _⟩
  case skp | sknp | ldVxDt | ldVxK | ldDtVx | ldStVx | addI | ldF | ldB | stRegs | ldRegs =>
    exact ⟨⟨_, _, 0xF0FF⟩, by decide, rfl, fun w => and_F0FF_eq_iff w _ _⟩

theorem row_eq_of_name_eq {r q : Row} (hr : r ∈ opcodeRows) (hq : q ∈ opcodeRows) (h : r.name = q.name) : r = q := by
  have hnodup : (opcodeRows.map Row.name).Nodup := by decide
  exact List.inj_on_of_nodup_map hnodup hr hq h

/-- The row of an instruction is known by its name. -/
theorem matches_row_iff {r : Row} {i : Instr} (hr : r ∈ opcodeRows) (hname : r.name = i.mnemonic) (w : Word) :
    w &&& r.mask = r.value ↔ fixedFields w i := by
  obtain ⟨q, hq, hqname, hiff⟩ := exists_row i
  rw [row_eq_of_name_eq hr hq (hname.trans hqname.symm)]
  exact hiff w

/-- An instruction of each name, in the order of the table. -/
def instrOfEachName : List Instr :=
  [.nop, .cls, .ret, .jp 0, .call 0, .seImm 0 0, .sneImm 0 0, .seReg 0 0, .ldImm 0 0, .addImm 0 0, .ldReg 0 0, .or 0 0,
   .and 0 0, .xor 0 0, .addReg 0 0, .sub 0 0, .shr 0 0, .subn 0 0, .shl 0 0, .sneReg 0 0, .ldI 0, .jpV0 0, .rnd 0 0,
   .drw 0 0 0, .skp 0, .sknp 0, .ldVxDt 0, .ldVxK 0, .ldDtVx 0, .ldStVx 0, .addI 0, .ldF 0, .ldB 0, .stRegs 0, .ldRegs 0]

theorem exists_instr_of_row {r : Row} (hr : r ∈ opcodeRows) : ∃ i : Instr, i.mnemonic = r.name := by
  have hnames : opcodeRows.map Row.name = instrOfEachName.map Instr.mnemonic := rfl
  have hr' : r.name ∈ instrOfEachName.map Instr.mnemonic := hnames ▸ List.mem_map_of_mem hr
  obtain ⟨i, -, hi⟩ := List.mem_map.1 hr'
  exact ⟨i, hi⟩

theorem fixedFields_encode (i : Instr) : fixedFields (encode i) i := by
  cases i
  exacts [FixedFields.nop, FixedFields.cls, FixedFields.ret, FixedFields.jp _, FixedFields.call _,
    FixedFields.seImm _ _, FixedFields.sneImm _ _, FixedFields.seReg _ _, FixedFields.ldImm _ _, FixedFields.addImm _ _,
    FixedFields.ldReg _ _, FixedFields.or _ _, FixedFields.and _ _, FixedFields.xor _ _, FixedFields.addReg _ _,
    FixedFields.sub _ _, FixedFields.shr _ _, FixedFields.subn _ _, FixedFields.shl _ _, FixedFields.sneReg _ _,
    FixedFields.ldI _, FixedFields.jpV0 _, FixedFields.rnd _ _, FixedFields.drw _ _ _, FixedFields.skp _,
    FixedFields.sknp _, FixedFields.ldVxDt _, FixedFields.ldVxK _, FixedFields.ldDtVx _, FixedFields.ldStVx _,
    FixedFields.addI _, FixedFields.ldF _, FixedFields.ldB _, FixedFields.stRegs _, FixedFields.ldRegs _]

/-- A word that holds the fixed fields of an instruction decodes to one of the same name. -/
theorem decodeWord_of_fixedFields {w : Word} {i : Instr} (h : fixedFields w i) :
    ∃ j, decodeWord w = some j ∧ j.mnemonic = i.mnemonic := by
  cases i
  case nop | cls | ret => cases h; exact ⟨_, rfl, rfl⟩
  case jp | call | ldI | jpV0 | seImm | sneImm | ldImm | addImm | rnd | drw =>
    have hop : fieldD1 w = _ := h
    simp [decodeWord, hop, Instr.mnemonic]
  case seReg | sneReg =>
    obtain ⟨hop, hn⟩ := h
    simp [decodeWord, hop, hn, Instr.mnemonic]
  case ldReg | or | and | xor | addReg | sub | shr | subn | shl =>
    obtain ⟨hop, hn⟩ := h
    simp [decodeWord, hop, decode8, hn, Instr.mnemonic]
  case skp | sknp =>
    obtain ⟨hop, hnn⟩ := h
    simp [decodeWord, hop, decodeE, hnn, Instr.mnemonic]
  case ldVxDt | ldVxK | ldDtVx | ldStVx | addI | ldF | ldB | stRegs | ldRegs =>
    obtain ⟨hop, hnn⟩ := h
    simp [decodeWord, hop, decodeF, hnn, Instr.mnemonic]

/-- A word holds the fixed fields of the instruction it decodes to. -/
theorem fixedFields_of_decodeWord {w : Word} {i : Instr} (h : decodeWord w = some i) : fixedFields w i := by
  obtain ⟨-, rfl⟩ := isEncodingOf_of_decodeWord h
  exact fixedFields_encode i

/-- Settles O1: matching a row is holding the fixed fields of the instructions of its name, and the decoder selects
the instruction by these fields. -/
theorem decodingIsTheOpcodeTable : Obligations.DecodingIsTheOpcodeTable := by
  refine ⟨fun w r hr => ⟨fun hmatch => ?_, fun ⟨i, hdec, hname⟩ => ?_⟩, fun i => ?_, rfl⟩
  · obtain ⟨i, hname⟩ := exists_instr_of_row hr
    obtain ⟨j, hdec, hj⟩ := decodeWord_of_fixedFields ((matches_row_iff hr hname.symm w).1 hmatch)
    exact ⟨j, hdec, hj.trans hname⟩
  · exact (matches_row_iff hr hname.symm w).2 (fixedFields_of_decodeWord hdec)
  · obtain ⟨r, hr, hname, -⟩ := exists_row i
    exact ⟨r, hr, hname⟩

end Sys2Proof.Proofs
end

section
/-! SUPPORT. Statements about the STEP cycle (spec/40_step_cycle.md): which outcome a STEP has (R90 to R95), and that no
instruction but RND rests on the next random byte (R96). -/

namespace Sys2Proof.Proofs

open Sys2Proof Sys2Proof.Machine Sys2Proof.Claims

/-! ### The outcomes of a STEP -/

/-- The word a STEP fetches, as the number its two bytes make with the high byte first (R51). -/
theorem fetchWord_eq_ofNat (s : State) : s.fetchWord =
    BitVec.ofNat 16 ((s.byteAt s.pc.toNat).toNat * 256 + (s.byteAt (s.pc.toNat + 1)).toNat) := by
  rw [← State.fetchWord_toNat, BitVec.ofNat_toNat, BitVec.setWidth_eq]

/-- Settles O6: the two bytes make the fetched word, and the STEP cycle runs what it decodes to. -/
theorem stepRunsTheDecodedInstruction : Obligations.StepRunsTheDecodedInstruction := by
  intro s i hstep hrun hpc hdec
  have hd : decodeWord s.takeEvent.fetchWord = some i := (congrArg decodeWord (fetchWord_eq_ofNat s)).trans hdec
  exact (step_of_nextEvent hstep).trans (stepEvent_of_decoded hrun hpc hd)

/-- Settles O7: the STEP cycle faults before it fetches. -/
theorem fetchOutsideMemoryLatchesMemoryBounds : Obligations.FetchOutsideMemoryLatchesMemoryBounds := by
  intro s hstep hrun hpc
  exact (step_of_nextEvent hstep).trans (stepEvent_of_pc_gt (s := s.takeEvent) hrun hpc)

theorem stepReply_of_fault {t : State} {f : FaultRecord} (h : t.fault = some f) : stepReply t = .faulted f := by
  rw [stepReply, h]

/-- Settles O9: the STEP cycle looks at the latch first, and the answer is what the latch then holds. -/
theorem haltedStepChangesNothing : Obligations.HaltedStepChangesNothing := by
  intro s f hstep hf
  exact ⟨(step_of_nextEvent hstep).trans (stepEvent_of_halted (s := s.takeEvent) hf),
    (reply_step (stepEvent_of_halted hf)).trans (stepReply_of_fault hf)⟩

/-- A word that decodes to NOP is NOP's encoding. -/
theorem decodeWord_eq_nop_iff (w : Word) : decodeWord w = some .nop ↔ w = 0x0000 := by
  constructor
  · intro h
    obtain ⟨-, hw⟩ := isEncodingOf_of_decodeWord h
    exact hw.symm
  · rintro rfl
    exact decodeWord_encode .nop rfl

/-- Settles O21: NOP is the fetch's advance of pc. -/
theorem nopOnlyAdvances : Obligations.NopOnlyAdvances :=
  ⟨decodeWord_eq_nop_iff, fun s _ => ⟨s.advance, exec_of_respects .nop s rfl, rfl, rfl⟩⟩

/-! ### The random byte -/

/-- The same machine at another position in the sequence of random draws (log entry 3). -/
def withDraws (s : State) (d : Nat) : State := { s with draws := d }

theorem setRegs_withDraws (bs : List Byte) : ∀ (s : State) (d k : Nat),
    (withDraws s d).setRegs k bs = withDraws (s.setRegs k bs) d := by
  induction bs with
  | nil => intro s d k; rfl
  | cons u rest ih => intro s d k; exact ih (s.setReg (Fin.ofNat 16 k) u) d (k + 1)

theorem storeBytes_withDraws (bs : List Byte) : ∀ (s : State) (d a : Nat),
    (withDraws s d).storeBytes a bs = withDraws (s.storeBytes a bs) d := by
  induction bs with
  | nil => intro s d a; rfl
  | cons u rest ih => intro s d a; exact ih (s.setByte a u) d (a + 1)

theorem skipIf_withDraws (s : State) (d : Nat) (c : Bool) :
    (withDraws s d).skipIf c = withDraws (s.skipIf c) d := by
  cases c <;> rfl

theorem push_withDraws (s : State) (d : Nat) (w : Word) : (withDraws s d).push w = withDraws (s.push w) d := by
  by_cases h : s.sp.val < 16 <;> simp [State.push, withDraws, h]

/-- An instruction that does not draw a random byte does not see how many were drawn. -/
theorem effect_withDraws {i : Instr} (h : ∀ x nn, i ≠ .rnd x nn) (s : State) (d : Nat) :
    effect i (withDraws s d) = withDraws (effect i s) d := by
  cases i
  case rnd x nn => exact absurd rfl (h x nn)
  case call nnn => exact congrArg (State.setPc · (zextNNN nnn)) (push_withDraws s d s.advance.pc)
  case seImm | sneImm | seReg | sneReg | skp | sknp => exact skipIf_withDraws s d _
  case ldB | stRegs => exact storeBytes_withDraws _ s.advance d _
  case ldRegs => exact setRegs_withDraws _ s.advance d 0
  all_goals rfl

theorem respects_withDraws (i : Instr) (s : State) (d : Nat) : (withDraws s d).respects i = s.respects i := by
  cases i <;> rfl

theorem mayRaise_withDraws (i : Instr) (s : State) (d : Nat) (c : Fault) :
    mayRaise i (withDraws s d) c = mayRaise i s c := by
  cases i <;> rfl

/-- R170's table gives an instruction one cause in a state (`mayRaise_withStack` with the stack as it is). -/
theorem mayRaise_unique {i : Instr} {s : State} {c e : Fault} (hc : mayRaise i s c) (he : mayRaise i s e) : e = c :=
  mayRaise_withStack (st := s.stack) hc he

/-- Settles O18: whether an instruction faults, with which cause, and what it does otherwise are the same at any
position. -/
theorem onlyRndDependsOnTheRandomByte : Obligations.OnlyRndDependsOnTheRandomByte := by
  intro i s d hi
  have hrd : (withDraws s d).respects i = s.respects i := respects_withDraws i s d
  rcases hr : s.respects i
  · obtain ⟨c, hc, hs⟩ := exec_of_not_respects i s hr
    obtain ⟨e, he, hd⟩ := exec_of_not_respects i (withDraws s d) (hrd.trans hr)
    obtain rfl : e = c := mayRaise_unique hc (mayRaise_withDraws i s d e ▸ he)
    exact ⟨_, hs, hd⟩
  · have hd := exec_of_respects i (withDraws s d) (hrd.trans hr)
    rw [effect_withDraws hi s d] at hd
    exact ⟨_, exec_of_respects i s hr, hd⟩

end Sys2Proof.Proofs
end

section
/-! SUPPORT. Statements about the control transfers (spec/41_control_flow.md): jumps, the call stack, the skips that
compare registers (R100 to R108). The table's patterns are first shown to be the encoder's words. -/

namespace Sys2Proof.Proofs

open Sys2Proof Sys2Proof.Machine Sys2Proof.Claims

/-! ### The table's patterns -/

theorem patNNN_eq_wordNNN (op : Nibble) (nnn : BitVec 12) : patNNN (op.toNat * 4096) nnn = wordNNN op nnn := by
  rw [patNNN, ← wordNNN_toNat, BitVec.ofNat_toNat, BitVec.setWidth_eq]

theorem patXNN_eq_wordXNN (op : Nibble) (x : Reg) (nn : Byte) :
    patXNN (op.toNat * 4096) x nn = wordXNN op x nn := by
  rw [patXNN, ← wordXNN_toNat, BitVec.ofNat_toNat, BitVec.setWidth_eq]

theorem patXYN_eq_wordXYN (op : Nibble) (x y : Reg) (n : Nibble) :
    patXYN (op.toNat * 4096) x y n.toNat = wordXYN op x y n := by
  rw [patXYN, ← wordXYN_toNat, BitVec.ofNat_toNat, BitVec.setWidth_eq]

/-- The words of a well-formed instruction: its encoding and no other. -/
theorem decodeWord_eq_some_iff {i : Instr} (hi : i.wellFormed = true) (w : Word) :
    decodeWord w = some i ↔ w = encode i := by
  constructor
  · intro h
    obtain ⟨-, hw⟩ := isEncodingOf_of_decodeWord h
    exact hw.symm
  · rintro rfl
    exact decodeWord_encode i hi

/-! ### Jumps -/

/-- Settles O22: both jumps only set pc, to a sum that 16 bits hold. -/
theorem jumpsSetPc : Obligations.JumpsSetPc := by
  refine ⟨fun nnn => ⟨?_, fun s _ => ?_⟩, fun nnn => ⟨?_, fun s _ => ?_⟩⟩
  · exact (decodeWord_eq_some_iff rfl _).2 (patNNN_eq_wordNNN 0x1 nnn)
  · exact ⟨effect (.jp nnn) s, exec_of_respects _ s rfl, rfl, toNat_zextNNN nnn⟩
  · exact (decodeWord_eq_some_iff rfl _).2 (patNNN_eq_wordNNN 0xB nnn)
  · exact ⟨effect (.jpV0 nnn) s, exec_of_respects _ s rfl, rfl, toNat_zextByte_add_zextNNN (s.reg 0) nnn⟩

/-! ### The call stack -/

/-- A push with room writes the stack and sp, and nothing else. -/
theorem push_eq_of_lt {s : State} (h : s.sp.val < 16) (w : Word) :
    s.push w = { s with stack := (s.push w).stack, sp := (s.push w).sp } := by
  simp [State.push, h]

/-- A push with room writes the entry at sp and leaves the others. -/
theorem getElem_push_stack {s : State} (h : s.sp.val < 16) (w : Word) (k : Reg) :
    (s.push w).stack[k] = if k.val = s.sp.val then w else s.stack[k] := by
  simp only [State.push_stack s w h, Fin.getElem_fin, Vector.getElem_set, eq_comm]

/-- The entry a pop reads is the topmost live one. -/
theorem pop_fst_of_sp_eq {s : State} {k : Reg} (h : s.sp.val = k.val + 1) : s.pop.1 = s.stack[k] := by
  simp [State.pop_fst, h]

theorem onlyPcStack_effect_call {s : State} (h : s.sp.val < 16) (nnn : BitVec 12) :
    OnlyPcStack s (effect (.call nnn) s) :=
  congrArg (State.setPc · (zextNNN nnn)) (push_eq_of_lt h s.advance.pc)

/-- Settles O23: CALL respects its condition iff there is room, and then it pushes the advanced pc. -/
theorem callPushesTheReturnAddress : Obligations.CallPushesTheReturnAddress := by
  intro nnn
  have hw : patNNN 0x2000 nnn = encode (.call nnn) := patNNN_eq_wordNNN 0x2 nnn
  refine ⟨(decodeWord_eq_some_iff rfl _).2 hw, fun s _ => ⟨fun hsp => ?_, fun hsp => ?_⟩⟩
  · exact ⟨effect (.call nnn) s, exec_of_respects _ s (decide_eq_true hsp), onlyPcStack_effect_call hsp nnn,
      toNat_zextNNN nnn, State.push_sp s _ hsp, getElem_push_stack hsp _⟩
  · have hfull : s.respects (.call nnn) = false := decide_eq_false (by omega)
    obtain ⟨c, rfl, he⟩ := exec_of_not_respects _ s hfull
    rw [hw]
    exact he

/-- Settles O24: RET respects its condition iff there is a live entry, and then it pops the topmost one. -/
theorem returnPopsIntoPc : Obligations.ReturnPopsIntoPc := by
  refine ⟨decodeWord_eq_some_iff rfl, fun s _ => ⟨fun k hsp => ?_, fun hsp => ?_⟩⟩
  · have hlive : s.respects .ret = true := decide_eq_true (by omega)
    exact ⟨effect .ret s, exec_of_respects _ s hlive, rfl, rfl, Nat.sub_eq_of_eq_add hsp, pop_fst_of_sp_eq hsp⟩
  · have hempty : s.respects .ret = false := decide_eq_false (by omega)
    obtain ⟨c, rfl, he⟩ := exec_of_not_respects _ s hempty
    exact he

/-- Settles O25: the entry RET pops (O24) is the one CALL pushed (O23), and the entries below it are the old ones. -/
theorem callThenReturnComesBack : Obligations.CallThenReturnComesBack := by
  intro s t u nnn hs hroom hcall hu husp hustack
  obtain ⟨hpush, -⟩ := (callPushesTheReturnAddress nnn).2 s hs
  obtain ⟨t', ht', -, -, hsp, hstack⟩ := hpush hroom
  obtain rfl : t' = t := Host.Outcome.next.inj (ht'.symm.trans hcall)
  obtain ⟨hpop, -⟩ := returnPopsIntoPc.2 u hu
  obtain ⟨w, hw, -, hwstack, hwsp, hwpc⟩ := hpop ⟨s.sp.val, hroom⟩ ((congrArg Fin.val husp).trans hsp)
  refine ⟨w, hw, ?_, Fin.ext hwsp, fun k hk => ?_⟩
  · rw [hwpc, hustack, hstack, if_pos rfl]
  · rw [hwstack, hustack, hstack, if_neg (Nat.ne_of_lt hk)]

/-! ### Skips -/

theorem onlyPc_skipIf (s : State) (c : Bool) : OnlyPc s (s.skipIf c) := by cases c <;> rfl

/-- An instruction that skips on a condition passes over exactly one instruction if it holds (R108). -/
theorem exists_next_of_skipIf {i : Instr} {s : State} {c : Bool} (he : exec i s = .next (s.skipIf c)) {p : Prop}
    [Decidable p] (hc : c = true ↔ p) :
    ∃ t, exec i s = .next t ∧ OnlyPc s t ∧ t.pc = if p then s.pc + 4 else s.pc + 2 := by
  have h4 : s.pc + 2 + 2 = s.pc + 4 := BitVec.add_assoc ..
  refine ⟨_, he, onlyPc_skipIf s c, ?_⟩
  rw [State.skipIf_pc, h4]
  simp only [hc]

/-- The same for a skip on the condition's negation. -/
theorem exists_next_of_skipIf_not {i : Instr} {s : State} {c : Bool} (he : exec i s = .next (s.skipIf c)) {p : Prop}
    [Decidable p] (hc : c = true ↔ ¬ p) :
    ∃ t, exec i s = .next t ∧ OnlyPc s t ∧ t.pc = if p then s.pc + 2 else s.pc + 4 := by
  simpa only [ite_not] using exists_next_of_skipIf he hc

theorem byte_beq_iff {a b : Byte} : (a == b) = true ↔ a.toNat = b.toNat := beq_iff_eq.trans BitVec.toNat_inj.symm

theorem byte_bne_iff {a b : Byte} : (a != b) = true ↔ ¬ a.toNat = b.toNat :=
  bne_iff_ne.trans (not_congr BitVec.toNat_inj.symm)

/-- Settles O26: each skip's condition is the comparison of two bytes as numbers. -/
theorem skipsCompareAndSkip : Obligations.SkipsCompareAndSkip := by
  refine ⟨fun x nn => ⟨?_, fun s _ => ?_⟩, fun x nn => ⟨?_, fun s _ => ?_⟩, fun x y => ⟨?_, fun s _ => ?_⟩,
    fun x y => ⟨?_, fun s _ => ?_⟩⟩
  · exact (decodeWord_eq_some_iff rfl _).2 (patXNN_eq_wordXNN 0x3 x nn)
  · exact exists_next_of_skipIf (exec_of_respects _ s rfl) byte_beq_iff
  · exact (decodeWord_eq_some_iff rfl _).2 (patXNN_eq_wordXNN 0x4 x nn)
  · exact exists_next_of_skipIf_not (exec_of_respects _ s rfl) byte_bne_iff
  · exact (decodeWord_eq_some_iff rfl _).2 (patXYN_eq_wordXYN 0x5 x y 0)
  · exact exists_next_of_skipIf (exec_of_respects _ s rfl) byte_beq_iff
  · exact (decodeWord_eq_some_iff rfl _).2 (patXYN_eq_wordXYN 0x9 x y 0)
  · exact exists_next_of_skipIf_not (exec_of_respects _ s rfl) byte_bne_iff

end Sys2Proof.Proofs
end

section
/-! SUPPORT. Statements about register load, arithmetic, logic, shift and random (spec/42_register_alu.md): the two ways
these instructions write V, and the values of bytes and flags as numbers (R133). -/

namespace Sys2Proof.Proofs

open Sys2Proof Sys2Proof.Machine Sys2Proof.Claims

/-- A pattern of format XY, whose match value holds the sub-opcode, is the encoder's word. -/
theorem patXYN_zero_eq_wordXYN (op : Nibble) (x y : Reg) (n : Nibble) :
    patXYN (op.toNat * 4096 + n.toNat) x y 0 = wordXYN op x y n := by
  rw [← patXYN_eq_wordXYN]
  exact congrArg (BitVec.ofNat 16) (by omega)

/-! ### The two ways of writing V -/

theorem reg_setReg_same (s : State) (x : Reg) (u : Byte) : (s.setReg x u).reg x = u :=
  (State.reg_setReg s x x u).trans (if_pos rfl)

/-- An instruction that only writes a byte to V[x]: the byte as a number. -/
theorem exists_next_of_setReg {i : Instr} {s : State} {x : Reg} {u : Byte}
    (he : exec i s = .next (s.advance.setReg x u)) {n : Nat} (hn : u.toNat = n) :
    ∃ t, exec i s = .next t ∧ OnlyPcV s t ∧ t.pc = s.pc + 2 ∧ WritesReg s t x n :=
  ⟨_, he, rfl, rfl, (congrArg BitVec.toNat (reg_setReg_same s.advance x u)).trans hn,
    fun _ hr => reg_setReg_of_ne hr s.advance u⟩

/-- The same with the byte bit by bit. -/
theorem exists_next_of_setReg_bits {i : Instr} {s : State} {x : Reg} {u : Byte}
    (he : exec i s = .next (s.advance.setReg x u)) {f : Nat → Bool} (hf : ∀ b, u.getLsbD b = f b) :
    ∃ t, exec i s = .next t ∧ OnlyPcV s t ∧ t.pc = s.pc + 2 ∧ (∀ b, (t.reg x).getLsbD b = f b) ∧
      ∀ r, r ≠ x → t.reg r = s.reg r :=
  ⟨_, he, rfl, rfl, fun b => (congrArg (BitVec.getLsbD · b) (reg_setReg_same s.advance x u)).trans (hf b),
    fun _ hr => reg_setReg_of_ne hr s.advance u⟩

/-- A result and then the flag written: the flag stands in VF, the result in V[x] unless that is VF (R131). -/
theorem writesRegFlag_setResultFlag (s : State) (x : Reg) (u : Byte) (c : Bool) :
    WritesRegFlag s (s.setResultFlag x u c) x u.toNat (flagByte c).toNat := by
  refine ⟨?_, fun hx => ?_, fun r hrx hr => ?_⟩
  · rw [State.reg_setResultFlag, if_pos rfl]
  · rw [State.reg_setResultFlag, if_neg hx, if_pos rfl]
  · exact reg_setResultFlag_of_ne (not_or.2 ⟨hrx, hr⟩) s u c

/-- An instruction that writes a result to V[x] and then the flag, both as numbers. -/
theorem exists_next_of_setResultFlag {i : Instr} {s : State} {x : Reg} {u : Byte} {c : Bool}
    (he : exec i s = .next (s.advance.setResultFlag x u c)) {n f : Nat} (hn : u.toNat = n)
    (hf : (flagByte c).toNat = f) :
    ∃ t, exec i s = .next t ∧ OnlyPcV s t ∧ t.pc = s.pc + 2 ∧ WritesRegFlag s t x n f := by
  subst hn hf
  exact ⟨_, he, rfl, rfl, writesRegFlag_setResultFlag s.advance x u c⟩

/-! ### Values as numbers (R133) -/

theorem toNat_flagByte (c : Bool) : (flagByte c).toNat = c.toNat := by cases c <;> rfl

theorem toNat_flagByte_decide (p : Prop) [Decidable p] : (flagByte (decide p)).toNat = if p then 1 else 0 := by
  by_cases h : p <;> simp [flagByte, h]

/-- The carry, R133's "`a + b > 255`". -/
theorem toNat_flagByte_carryOut (a b : Byte) :
    (flagByte (carryOut a b)).toNat = if 255 < a.toNat + b.toNat then 1 else 0 :=
  toNat_flagByte_decide _

/-- The inverted borrow: 0 exactly if the subtraction borrows, so 1 for equal bytes (R133). -/
theorem toNat_flagByte_noBorrow (a b : Byte) :
    (flagByte (noBorrow a b)).toNat = if a.toNat < b.toNat then 0 else 1 := by
  rw [noBorrow, toNat_flagByte_decide]
  simp only [← Nat.not_lt, ite_not]

/-- A wrapped difference: 256 is added exactly if the subtraction borrows (R133). -/
theorem toNat_byte_sub (a b : Byte) :
    (a - b).toNat = if a.toNat < b.toNat then a.toNat + 256 - b.toNat else a.toNat - b.toNat := by
  rw [BitVec.toNat_sub]
  split <;> omega

theorem toNat_byte_ushiftRight_one (a : Byte) : (a >>> 1).toNat = a.toNat / 2 := by
  rw [BitVec.toNat_ushiftRight, Nat.shiftRight_eq_div_pow, Nat.pow_one]

theorem toNat_byte_shiftLeft_one (a : Byte) : (a <<< 1).toNat = 2 * a.toNat % 256 := by
  rw [BitVec.toNat_shiftLeft, Nat.shiftLeft_eq, Nat.pow_one, Nat.mul_comm]

/-- Bit 0, which a right shift moves out, is the remainder by 2 (R128). -/
theorem toNat_flagByte_shiftedOutRight (a : Byte) : (flagByte (shiftedOutRight a)).toNat = a.toNat % 2 := by
  rw [toNat_flagByte, shiftedOutRight, BitVec.getLsbD, Nat.toNat_testBit, Nat.pow_zero, Nat.div_one]

/-- Bit 7, which a left shift moves out, is the quotient by 128 (R130). -/
theorem toNat_flagByte_shiftedOutLeft (a : Byte) : (flagByte (shiftedOutLeft a)).toNat = a.toNat / 128 := by
  rw [toNat_flagByte, shiftedOutLeft, BitVec.getLsbD, Nat.toNat_testBit]
  omega

/-! ### The instructions -/

/-- Settles O27: both only write one byte. -/
theorem loadsWriteTheRegister : Obligations.LoadsWriteTheRegister := by
  refine ⟨fun x nn => ⟨?_, fun s _ => ?_⟩, fun x y => ⟨?_, fun s _ => ?_⟩⟩
  · exact (decodeWord_eq_some_iff rfl _).2 (patXNN_eq_wordXNN 0x6 x nn)
  · exact exists_next_of_setReg (exec_of_respects _ s rfl) rfl
  · exact (decodeWord_eq_some_iff rfl _).2 (patXYN_zero_eq_wordXYN 0x8 x y 0x0)
  · exact exists_next_of_setReg (exec_of_respects _ s rfl) rfl

/-- Settles O28: the byte written is the sum, and no flag follows it. -/
theorem addImmediateWrapsWithoutFlag : Obligations.AddImmediateWrapsWithoutFlag := by
  refine fun x nn => ⟨?_, fun s _ => ?_⟩
  · exact (decodeWord_eq_some_iff rfl _).2 (patXNN_eq_wordXNN 0x7 x nn)
  · exact exists_next_of_setReg (exec_of_respects _ s rfl) (BitVec.toNat_add (s.reg x) nn)

/-- Settles O29: each writes one byte, whose bits are those of the bitwise operation. -/
theorem logicIsBitwiseWithoutFlag : Obligations.LogicIsBitwiseWithoutFlag := by
  refine ⟨fun x y => ⟨?_, fun s _ => ?_⟩, fun x y => ⟨?_, fun s _ => ?_⟩, fun x y => ⟨?_, fun s _ => ?_⟩⟩
  · exact (decodeWord_eq_some_iff rfl _).2 (patXYN_zero_eq_wordXYN 0x8 x y 0x1)
  · exact exists_next_of_setReg_bits (exec_of_respects _ s rfl) fun _ => BitVec.getLsbD_or
  · exact (decodeWord_eq_some_iff rfl _).2 (patXYN_zero_eq_wordXYN 0x8 x y 0x2)
  · exact exists_next_of_setReg_bits (exec_of_respects _ s rfl) fun _ => BitVec.getLsbD_and
  · exact (decodeWord_eq_some_iff rfl _).2 (patXYN_zero_eq_wordXYN 0x8 x y 0x3)
  · exact exists_next_of_setReg_bits (exec_of_respects _ s rfl) fun _ => BitVec.getLsbD_xor

/-- Settles O30: the result is the wrapped sum, the flag its carry. -/
theorem addRegisterSetsCarry : Obligations.AddRegisterSetsCarry := by
  refine fun x y => ⟨?_, fun s _ => ?_⟩
  · exact (decodeWord_eq_some_iff rfl _).2 (patXYN_zero_eq_wordXYN 0x8 x y 0x4)
  · exact exists_next_of_setResultFlag (exec_of_respects _ s rfl) (BitVec.toNat_add _ _)
      (toNat_flagByte_carryOut _ _)

/-- Settles O31: the result is the wrapped difference, the flag its inverted borrow; SUBN has the operands swapped. -/
theorem subtractionsSetInvertedBorrow : Obligations.SubtractionsSetInvertedBorrow := by
  refine ⟨fun x y => ⟨?_, fun s _ => ?_⟩, fun x y => ⟨?_, fun s _ => ?_⟩⟩
  · exact (decodeWord_eq_some_iff rfl _).2 (patXYN_zero_eq_wordXYN 0x8 x y 0x5)
  · exact exists_next_of_setResultFlag (exec_of_respects _ s rfl) (toNat_byte_sub _ _)
      (toNat_flagByte_noBorrow _ _)
  · exact (decodeWord_eq_some_iff rfl _).2 (patXYN_zero_eq_wordXYN 0x8 x y 0x7)
  · exact exists_next_of_setResultFlag (exec_of_respects _ s rfl) (toNat_byte_sub _ _)
      (toNat_flagByte_noBorrow _ _)

/-- Settles O32: halving and doubling as shifts, the flag the bit moved out; Y occurs in the word alone. -/
theorem shiftsMoveOneBitIntoTheFlag : Obligations.ShiftsMoveOneBitIntoTheFlag := by
  refine ⟨fun x y => ⟨?_, fun s _ => ?_⟩, fun x y => ⟨?_, fun s _ => ?_⟩⟩
  · exact (decodeWord_eq_some_iff rfl _).2 (patXYN_zero_eq_wordXYN 0x8 x y 0x6)
  · exact exists_next_of_setResultFlag (exec_of_respects _ s rfl) (toNat_byte_ushiftRight_one _)
      (toNat_flagByte_shiftedOutRight _)
  · exact (decodeWord_eq_some_iff rfl _).2 (patXYN_zero_eq_wordXYN 0x8 x y 0xE)
  · exact exists_next_of_setResultFlag (exec_of_respects _ s rfl) (toNat_byte_shiftLeft_one _)
      (toNat_flagByte_shiftedOutLeft _)

/-- Settles O33: the byte written is the next draw AND NN, over the state with that draw spent. -/
theorem randomByteIsMasked : Obligations.RandomByteIsMasked := by
  refine fun x nn => ⟨?_, fun s _ => ?_⟩
  · exact (decodeWord_eq_some_iff rfl _).2 (patXNN_eq_wordXNN 0xC x nn)
  · refine ⟨effect (.rnd x nn) s, exec_of_respects _ s rfl, rfl, fun b => ?_,
      fun r hr => effect_reg (i := .rnd x nn) hr s⟩
    have hx : (effect (.rnd x nn) s).reg x = Config.randomByte s.draws &&& nn :=
      reg_setReg_same s.advance.drawByte.2 x _
    rw [hx, BitVec.getLsbD_and]

end Sys2Proof.Proofs
end

section
/-! SUPPORT. Statements about the index register and the memory instructions (spec/43_index_memory.md R140 to R145): I
written alone, bytes stored and registers loaded from I upward, the bounds fault they share (R56). -/

namespace Sys2Proof.Proofs

open Sys2Proof Sys2Proof.Machine Sys2Proof.Claims

/-- A pattern of format X, whose match value holds NN, is the encoder's word. -/
theorem patX_eq_wordXNN (op : Nibble) (x : Reg) (nn : Byte) :
    patX (op.toNat * 4096 + nn.toNat) x = wordXNN op x nn := by
  rw [← patXNN_eq_wordXNN]
  exact congrArg (BitVec.ofNat 16) (by omega)

/-! ### The index register -/

theorem toNat_zextByte (u : Byte) : (zextByte u).toNat = u.toNat := BitVec.toNat_setWidth_of_le (by decide)

/-- 5 * 255 fits 16 bits: the address of a glyph does not wrap (D9). -/
theorem toNat_glyphAddr (u : Byte) : (glyphAddr u).toNat = 5 * u.toNat := by
  have h5 : (5 : Word).toNat = 5 := rfl
  rw [glyphAddr, BitVec.toNat_mul, toNat_zextByte, h5]
  omega

/-- An instruction that only writes a word to I: the word as a number. -/
theorem exists_next_of_setI {i : Instr} {s : State} {w : Word} (he : exec i s = .next (s.advance.setI w)) {n : Nat}
    (hn : w.toNat = n) : ∃ t, exec i s = .next t ∧ OnlyPcI s t ∧ t.pc = s.pc + 2 ∧ t.i.toNat = n :=
  ⟨_, he, rfl, rfl, hn⟩

/-- Settles O34: NNN is zero-extended. -/
theorem loadIndexWritesI : Obligations.LoadIndexWritesI := by
  refine fun nnn => ⟨?_, fun s _ => ?_⟩
  · exact (decodeWord_eq_some_iff rfl _).2 (patNNN_eq_wordNNN 0xA nnn)
  · exact exists_next_of_setI (exec_of_respects _ s rfl) (toNat_zextNNN nnn)

/-- Settles O35: the sum is taken at 16 bits, and so is the product, which fits them. -/
theorem indexArithmetic : Obligations.IndexArithmetic := by
  refine ⟨fun x => ⟨?_, fun s _ => ?_⟩, fun x => ⟨?_, fun s _ => ?_⟩⟩
  · exact (decodeWord_eq_some_iff rfl _).2 (patX_eq_wordXNN 0xF x 0x1E)
  · refine exists_next_of_setI (exec_of_respects _ s rfl) ?_
    rw [BitVec.toNat_add, toNat_zextByte]
  · exact (decodeWord_eq_some_iff rfl _).2 (patX_eq_wordXNN 0xF x 0x29)
  · exact exists_next_of_setI (exec_of_respects _ s rfl) (toNat_glyphAddr _)

/-! ### The bounds fault -/

/-- An instruction whose one condition is that `I` to `I + last` exist: outside, it latches MemoryBounds with its own
word and does nothing else (R56, D3). -/
theorem exec_of_out_of_bounds {i : Instr} {s : State} {last : Nat} {w : Word} (hw : w = encode i)
    (hr : s.respects i = s.inBounds last) (hm : ∀ c, mayRaise i s c → c = .memoryBounds (max s.i.toNat 4096))
    (h : 4095 < s.i.toNat + last) :
    exec i s = .next { s with
      fault := some { cause := .memoryBounds (max s.i.toNat 4096), pc0 := s.pc, word := w } } := by
  obtain ⟨c, hc, he⟩ := exec_of_not_respects i s (hr.trans ((s.inBounds_false_iff last).2 h))
  obtain rfl := hm c hc
  rw [hw]
  exact he

/-! ### Stores -/

theorem onlyPcMem_storeBytes (s : State) (a : Nat) (bs : List Byte) : OnlyPcMem s (s.advance.storeBytes a bs) := by
  rw [OnlyPcMem, State.storeBytes_pc]
  exact State.storeBytes_eq bs s.advance a

/-- The three digits of a byte in memory, the hundreds first (R143). -/
theorem toNat_byteAt_storeBytes_bcdDigits (s : State) (a : Nat) (u : Byte) :
    ((s.storeBytes a (bcdDigits u)).byteAt a).toNat = u.toNat / 100 ∧
    ((s.storeBytes a (bcdDigits u)).byteAt (a + 1)).toNat = u.toNat / 10 % 10 ∧
    ((s.storeBytes a (bcdDigits u)).byteAt (a + 2)).toNat = u.toNat % 10 := by
  have hget (k : Nat) (hk : k < 3) :
      ((s.storeBytes a (bcdDigits u)).byteAt (a + k)).toNat = ((bcdDigits u)[k]'hk).toNat :=
    congrArg BitVec.toNat (State.byteAt_storeBytes_inside hk)
  have hu := u.isLt
  refine ⟨(hget 0 (by decide)).trans ?_, (hget 1 (by decide)).trans ?_, (hget 2 (by decide)).trans ?_⟩
  all_goals exact Nat.mod_eq_of_lt (by omega)

/-- Settles O36: the digits are the quotients and remainders by 100 and 10. -/
theorem bcdStoresDecimalDigits : Obligations.BcdStoresDecimalDigits := by
  intro x
  have hw : patX 0xF033 x = encode (.ldB x) := patX_eq_wordXNN 0xF x 0x33
  refine ⟨(decodeWord_eq_some_iff rfl _).2 hw, fun s _ => ⟨fun hb => ?_, exec_of_out_of_bounds hw rfl fun _ hc => hc⟩⟩
  refine ⟨effect (.ldB x) s, exec_of_respects _ s ((s.inBounds_iff 2).2 hb), onlyPcMem_storeBytes s _ _,
    State.storeBytes_pc .., ⟨(s.reg x).toNat / 100, (s.reg x).toNat / 10 % 10, (s.reg x).toNat % 10, ?_⟩, fun _ ha => ?_⟩
  · have hu := (s.reg x).isLt
    exact ⟨by omega, by omega, by omega, by omega, toNat_byteAt_storeBytes_bcdDigits s.advance s.i.toNat (s.reg x)⟩
  · exact effect_byteAt_outside (i := .ldB x) (.inl ⟨x, rfl⟩) s ha

/-- A register block stored holds V[k] at its k-th byte (R144). -/
theorem byteAt_storeBytes_regBlock (s t : State) (a : Nat) {x k : Reg} (hk : k.val ≤ x.val) :
    (t.storeBytes a (s.regBlock x)).byteAt (a + k.val) = s.reg k := by
  have hlen : k.val < (s.regBlock x).length := by rw [State.length_regBlock]; omega
  rw [State.byteAt_storeBytes_inside hlen, State.getElem_regBlock, reg_ofNat_val]

/-- Settles O37: the block of V[0] to V[X], stored from I upward. -/
theorem storeRegistersFromI : Obligations.StoreRegistersFromI := by
  intro x
  have hw : patX 0xF055 x = encode (.stRegs x) := patX_eq_wordXNN 0xF x 0x55
  refine ⟨(decodeWord_eq_some_iff rfl _).2 hw, fun s _ => ⟨fun hb => ?_, exec_of_out_of_bounds hw rfl fun _ hc => hc⟩⟩
  refine ⟨effect (.stRegs x) s, exec_of_respects _ s ((s.inBounds_iff x.val).2 hb), onlyPcMem_storeBytes s _ _,
    State.storeBytes_pc .., fun k hk => ?_, fun a ha => ?_⟩
  · exact byteAt_storeBytes_regBlock s s.advance s.i.toNat hk
  · exact effect_byteAt_outside (i := .stRegs x) (.inr ⟨x, rfl⟩) s ha

/-! ### Loads -/

theorem onlyPcV_setRegs (s : State) (k : Nat) (bs : List Byte) : OnlyPcV s (s.advance.setRegs k bs) := by
  rw [OnlyPcV, State.setRegs_pc]
  exact State.setRegs_eq bs s.advance k

/-- Registers loaded from memory: V[k] holds the k-th byte (R145). -/
theorem reg_setRegs_loadBytes (s t : State) (a : Nat) {x k : Reg} (hk : k.val ≤ x.val) :
    (t.setRegs 0 (s.loadBytes a (x.val + 1))).reg k = s.byteAt (a + k.val) := by
  have hlen : (s.loadBytes a (x.val + 1)).length = x.val + 1 := s.length_loadBytes a _
  rw [State.reg_setRegs _ t 0 k (by omega), dif_pos (by omega), State.getElem_loadBytes, Nat.sub_zero]

/-- Settles O38: the bytes from I upward, loaded into V[0] to V[X]. -/
theorem loadRegistersFromI : Obligations.LoadRegistersFromI := by
  intro x
  have hw : patX 0xF065 x = encode (.ldRegs x) := patX_eq_wordXNN 0xF x 0x65
  refine ⟨(decodeWord_eq_some_iff rfl _).2 hw, fun s _ => ⟨fun hb => ?_, exec_of_out_of_bounds hw rfl fun _ hc => hc⟩⟩
  refine ⟨effect (.ldRegs x) s, exec_of_respects _ s ((s.inBounds_iff x.val).2 hb), onlyPcV_setRegs s 0 _,
    State.setRegs_pc .., fun k hk => ?_, fun k hk => ?_⟩
  · exact reg_setRegs_loadBytes s s.advance s.i.toNat hk
  · exact effect_reg (i := .ldRegs x) (Nat.not_le_of_lt hk) s

/-- Settles O39: the bytes LD_REGS loads (O38) are those ST_REGS stored (O37). -/
theorem storeThenLoadRestoresTheRegisters : Obligations.StoreThenLoadRestoresTheRegisters := by
  intro x s t u hs hb hstore hu hi hbytes
  obtain ⟨hst, -⟩ := (storeRegistersFromI x).2 s hs
  obtain ⟨t', ht', -, -, hstored, -⟩ := hst hb
  obtain rfl : t' = t := Host.Outcome.next.inj (ht'.symm.trans hstore)
  obtain ⟨hld, -⟩ := (loadRegistersFromI x).2 u hu
  obtain ⟨w, hw, -, -, hloaded, -⟩ := hld (by rwa [hi])
  refine ⟨w, hw, fun k hk => ?_⟩
  rw [hloaded k hk, hbytes, hi, hstored k hk]

end Sys2Proof.Proofs
end

section
/-! SUPPORT. Statements about the framebuffer (spec/44_display.md R150, R151): the clear screen, and the sprite drawn as
a toggle of the cells it covers, of which drawing twice is a consequence. -/

namespace Sys2Proof.Proofs

open Sys2Proof Sys2Proof.Machine Sys2Proof.Claims

/-- Settles O42: CLS respects its conditions in every state, and its effect is the cleared framebuffer. -/
theorem clearScreenClearsEveryCell : Obligations.ClearScreenClearsEveryCell :=
  ⟨decodeWord_eq_some_iff rfl,
    fun s _ => ⟨effect .cls s, exec_of_respects _ s rfl, rfl, Framebuffer.get_clear⟩⟩

/-! ### DRW: its word and its condition -/

theorem patXYN_eq_encode_drw (x y : Reg) {n : Nat} (hn : n ≤ 15) : patXYN 0xD000 x y n = encode (.drw x y n) := by
  have h := patXYN_eq_wordXYN 0xD x y (BitVec.ofNat 4 n)
  rwa [toNat_ofNat_of_heightFits (decide_eq_true hn)] at h

theorem respects_drw_iff (s : State) (x y : Reg) (n : Nat) :
    s.respects (.drw x y n) = true ↔ n = 0 ∨ s.i.toNat + (n - 1) ≤ 4095 := by
  rw [State.respects, Bool.or_eq_true, decide_eq_true_iff, State.inBounds_iff]

/-- DRW of at least one row is conditioned on the address of its last row alone (R56). -/
theorem respects_drw_of_ne_zero {n : Nat} (hn : n ≠ 0) (s : State) (x y : Reg) :
    s.respects (.drw x y n) = s.inBounds (n - 1) := by
  rw [State.respects, decide_eq_false hn, Bool.false_or]

/-- Settles O44: the bounds fault of R56 at the sprite's last row. -/
theorem drawOutsideMemoryLatchesMemoryBounds : Obligations.DrawOutsideMemoryLatchesMemoryBounds := by
  intro x y n s _ hpos hn hout
  have hr : s.respects (.drw x y n) = s.inBounds (n - 1) := respects_drw_of_ne_zero (Nat.ne_of_gt hpos) s x y
  exact exec_of_out_of_bounds (patXYN_eq_encode_drw x y hn) hr (fun _ hc => hc) hout

/-! ### The screen and VF after DRW, by the cells the sprite covers -/

theorem mem_spritePixels_iff_spriteCovers (s : State) (x y : Reg) (n : Nat) (p : Pixel) :
    p ∈ spritePixels (s.reg x) (s.reg y) (s.loadBytes s.i.toNat n) ↔ SpriteCovers s x y n p :=
  s.mem_spritePixels _ _ _ n p

theorem get_effect_drw_of_covers {s : State} {x y : Reg} {n : Nat} (hn : n ≤ 15) {p : Pixel}
    (hp : SpriteCovers s x y n p) :
    Framebuffer.get (effect (.drw x y n) s).fb p = !Framebuffer.get s.fb p := by
  obtain ⟨hcell, -⟩ := s.drawn_spec x y n (by omega)
  exact (hcell p).trans (if_pos ((mem_spritePixels_iff_spriteCovers s x y n p).2 hp))

theorem get_effect_drw_of_not_covers {s : State} {x y : Reg} {n : Nat} (hn : n ≤ 15) {p : Pixel}
    (hp : ¬ SpriteCovers s x y n p) :
    Framebuffer.get (effect (.drw x y n) s).fb p = Framebuffer.get s.fb p := by
  obtain ⟨hcell, -⟩ := s.drawn_spec x y n (by omega)
  exact (hcell p).trans (if_neg (mt (mem_spritePixels_iff_spriteCovers s x y n p).1 hp))

theorem drawn_snd_iff (s : State) (x y : Reg) {n : Nat} (hn : n ≤ 15) :
    (s.drawn x y n).2 = true ↔ ∃ p, SpriteCovers s x y n p ∧ Framebuffer.get s.fb p = true := by
  obtain ⟨-, hcollision⟩ := s.drawn_spec x y n (by omega)
  simpa only [mem_spritePixels_iff_spriteCovers] using hcollision

/-- DRW writes VF last: it holds the collision flag as a number (R151). -/
theorem vf_effect_drw (s : State) (x y : Reg) (n : Nat) :
    ((effect (.drw x y n) s).reg 15).toNat = (s.drawn x y n).2.toNat := by
  rw [effect, State.reg_setFlag, if_pos rfl, toNat_flagByte]

/-- Settles O43: the effect's framebuffer cell by cell, and VF as the collision flag. -/
theorem drawTogglesTheCellsUnderTheSprite : Obligations.DrawTogglesTheCellsUnderTheSprite := by
  intro x y n hn
  have hwf : (Instr.drw x y n).wellFormed = true := decide_eq_true hn
  refine ⟨(decodeWord_eq_some_iff hwf _).2 (patXYN_eq_encode_drw x y hn), fun s _ hb => ?_⟩
  refine ⟨effect (.drw x y n) s, exec_of_respects _ s ((respects_drw_iff s x y n).2 hb), rfl, rfl,
    fun p => get_effect_drw_of_covers hn, fun p => get_effect_drw_of_not_covers hn, fun hhit => ?_, fun hmiss => ?_,
    fun r hr => effect_reg (i := .drw x y n) hr s⟩
  · rw [vf_effect_drw, (drawn_snd_iff s x y hn).2 hhit, Bool.toNat_true]
  · rw [vf_effect_drw, Bool.eq_false_iff.2 (mt (drawn_snd_iff s x y hn).1 hmiss), Bool.toNat_false]

/-! ### Drawing twice -/

/-- The cells a sprite covers depend on I, the bytes and the two coordinates only. -/
theorem spriteCovers_congr {s u : State} {x y x' y' : Reg} (hi : u.i = s.i) (hbytes : SameBytes s u)
    (hx : u.reg x' = s.reg x) (hy : u.reg y' = s.reg y) (n : Nat) (p : Pixel) :
    SpriteCovers u x' y' n p ↔ SpriteCovers s x y n p := by
  simp only [SpriteCovers, hi, hbytes _, hx, hy]

/-- Settles O45: the second draw covers the cells of the first, and finds each of them toggled (O43). -/
theorem drawingTwiceRestoresTheScreen : Obligations.DrawingTwiceRestoresTheScreen := by
  intro x y x' y' n s t u hn hs hu hb hdraw hfb hi hbytes hx hy
  obtain ⟨t', ht', -, -, hcovered, huncovered, -⟩ := (drawTogglesTheCellsUnderTheSprite x y n hn).2 s hs hb
  obtain rfl : t' = t := Host.Outcome.next.inj (ht'.symm.trans hdraw)
  obtain ⟨w, hw, -, -, hcovered', huncovered', hhit, hmiss, -⟩ :=
    (drawTogglesTheCellsUnderTheSprite x' y' n hn).2 u hu (by rwa [hi])
  have hsame (p : Pixel) : SpriteCovers u x' y' n p ↔ SpriteCovers s x y n p :=
    spriteCovers_congr hi hbytes hx hy n p
  have hclear : (∃ p, SpriteCovers u x' y' n p ∧ Framebuffer.get u.fb p = true) ↔
      ∃ p, SpriteCovers s x y n p ∧ Framebuffer.get s.fb p = false :=
    exists_congr fun p => (and_congr_left' (hsame p)).trans <| and_congr_right fun hp => by
      rw [hfb, hcovered p hp, Bool.not_eq_true']
  refine ⟨w, hw, fun p => ?_, fun hvf => hclear.1 ?_, fun h => hhit (hclear.2 h)⟩
  · by_cases hp : SpriteCovers s x y n p
    · rw [hcovered' p ((hsame p).2 hp), hfb, hcovered p hp, Bool.not_not]
    · rw [huncovered' p (mt (hsame p).1 hp), hfb, huncovered p hp]
  · by_contra hnone
    rw [hmiss hnone] at hvf
    exact absurd hvf Nat.zero_ne_one

end Sys2Proof.Proofs
end

section
/-! SUPPORT. Statements about the keypad and the timers (spec/45_keypad_timers.md R160 to R165): the skips on a key and
the fault they share (D8), the key wait by what the key scan answers, the timer moves. -/

namespace Sys2Proof.Proofs

open Sys2Proof Sys2Proof.Machine Sys2Proof.Claims

/-! ### Skips on a key -/

theorem ofNat_toNat_of_key {u : Byte} {k : Reg} (hk : u.toNat = k.val) : Fin.ofNat 16 u.toNat = k := by
  rw [hk, reg_ofNat_val]

theorem exec_skp_of_key {s : State} {x k : Reg} (hk : (s.reg x).toNat = k.val) :
    exec (.skp x) s = .next (s.skipIf s.keys[k]) := by
  have hr : s.respects (.skp x) = true := decide_eq_true (by omega)
  rw [exec_of_respects _ s hr, effect, ofNat_toNat_of_key hk, State.key]

theorem exec_sknp_of_key {s : State} {x k : Reg} (hk : (s.reg x).toNat = k.val) :
    exec (.sknp x) s = .next (s.skipIf (!s.keys[k])) := by
  have hr : s.respects (.sknp x) = true := decide_eq_true (by omega)
  rw [exec_of_respects _ s hr, effect, ofNat_toNat_of_key hk, State.key]

/-- An instruction whose one condition is that V[x] is the index of a key: above 15, it latches KeypadIndex with its own
word and does nothing else (D8, D3). -/
theorem exec_of_no_key {i : Instr} {s : State} {x : Reg} {w : Word} (hw : w = encode i)
    (hr : s.respects i = decide ((s.reg x).toNat ≤ 15)) (hm : ∀ c, mayRaise i s c → c = .keypadIndex (s.reg x))
    (h : 15 < (s.reg x).toNat) :
    exec i s = .next { s with
      fault := some { cause := .keypadIndex (s.reg x), pc0 := s.pc, word := w } } := by
  obtain ⟨c, hc, he⟩ := exec_of_not_respects i s (hr.trans (decide_eq_false (Nat.not_le_of_lt h)))
  obtain rfl := hm c hc
  rw [hw]
  exact he

/-- Settles O46: with V[X] the index of a key both skips have its state as their condition, else they raise the fault. -/
theorem keySkipsTestTheKey : Obligations.KeySkipsTestTheKey := by
  refine ⟨fun x => ?_, fun x => ?_⟩
  · have hw : patX 0xE09E x = encode (.skp x) := patX_eq_wordXNN 0xE x 0x9E
    refine ⟨(decodeWord_eq_some_iff rfl _).2 hw, fun s _ => ⟨fun k hk => ?_, exec_of_no_key hw rfl fun _ hc => hc⟩⟩
    exact exists_next_of_skipIf (exec_skp_of_key hk) Iff.rfl
  · have hw : patX 0xE0A1 x = encode (.sknp x) := patX_eq_wordXNN 0xE x 0xA1
    refine ⟨(decodeWord_eq_some_iff rfl _).2 hw, fun s _ => ⟨fun k hk => ?_, exec_of_no_key hw rfl fun _ hc => hc⟩⟩
    exact exists_next_of_skipIf_not (exec_sknp_of_key hk) ((Bool.not_eq_true' _).to_iff.trans Bool.eq_false_iff)

/-! ### The key wait -/

theorem effect_ldVxK_of_some {s : State} {k : Reg} (h : s.lowestKey = some k) (x : Reg) :
    effect (.ldVxK x) s = s.advance.setReg x (BitVec.ofNat 8 k.val) := by
  rw [effect, pcAfterPoll, regsAfterPoll, h]
  rfl

theorem effect_ldVxK_of_none {s : State} (h : s.lowestKey = none) (x : Reg) : effect (.ldVxK x) s = s := by
  rw [effect, pcAfterPoll, regsAfterPoll, h]
  rfl

/-- Settles O47: the key scan answers the lowest pressed key, or none. -/
theorem keyWaitTakesTheLowestKeyOrPolls : Obligations.KeyWaitTakesTheLowestKeyOrPolls := by
  refine fun x => ⟨?_, fun s _ => ⟨fun k hk hlow => ?_, fun hnone => ?_⟩⟩
  · exact (decodeWord_eq_some_iff rfl _).2 (patX_eq_wordXNN 0xF x 0x0A)
  · have he := exec_of_respects (.ldVxK x) s rfl
    rw [effect_ldVxK_of_some (State.lowestKey_eq_some hk hlow)] at he
    exact exists_next_of_setReg he (Nat.mod_eq_of_lt (by omega))
  · rw [exec_of_respects _ s rfl, effect_ldVxK_of_none (State.lowestKey_eq_none hnone)]

/-! ### The timer moves -/

/-- Settles O48: the three moves respect their conditions in every state, and each has its one write as its effect. -/
theorem timerMoves : Obligations.TimerMoves := by
  refine ⟨fun x => ⟨?_, fun s _ => ?_⟩, fun x => ⟨?_, fun s _ => ?_⟩, fun x => ⟨?_, fun s _ => ?_⟩⟩
  · exact (decodeWord_eq_some_iff rfl _).2 (patX_eq_wordXNN 0xF x 0x07)
  · exact exists_next_of_setReg (exec_of_respects _ s rfl) rfl
  · exact (decodeWord_eq_some_iff rfl _).2 (patX_eq_wordXNN 0xF x 0x15)
  · exact ⟨effect (.ldDtVx x) s, exec_of_respects _ s rfl, rfl⟩
  · exact (decodeWord_eq_some_iff rfl _).2 (patX_eq_wordXNN 0xF x 0x18)
  · exact ⟨effect (.ldStVx x) s, exec_of_respects _ s rfl, rfl⟩

end Sys2Proof.Proofs
end

section
/-! SUPPORT. Statements about faults and the host's events (spec/60_exceptions.md): which fault a STEP raises and what
it leaves (R170 to R174), the halted core (R173, R176), and TICK, KEY and DISPLAY (R185 to R188). -/

namespace Sys2Proof.Proofs

open Sys2Proof Sys2Proof.Machine Sys2Proof.Claims

/-! ### Every event answers a next state -/

theorem exec_font_schedule {i : Instr} {s t : State} (h : exec i s = .next t) :
    t.font = s.font ∧ t.schedule = s.schedule := by
  rcases exec_cases h with ⟨-, rfl⟩ | ⟨c, -, rfl⟩
  · exact ⟨effect_font i s, effect_schedule i s⟩
  · exact ⟨rfl, rfl⟩

theorem stepEvent_next (s : State) : ∃ t, stepEvent s = .next t ∧ t.font = s.font ∧ t.schedule = s.schedule := by
  rcases stepEvent_cases s with ⟨-, -, hs⟩ | ⟨-, -, hs⟩ | ⟨-, -, -, hs⟩ | ⟨i, -, -, -, hs⟩
  · exact ⟨s, hs, rfl, rfl⟩
  · exact ⟨_, hs, rfl, rfl⟩
  · exact ⟨_, hs, rfl, rfl⟩
  · obtain ⟨t, ht⟩ := exec_next i s
    exact ⟨t, hs.trans ht, exec_font_schedule ht⟩

/-- LOAD changes memory alone. -/
theorem load_eq (s : State) (data : List Byte) : s.load data = { s with mem := (s.load data).mem } := by
  rcases s.load_cases data with ⟨-, e⟩ | ⟨-, e⟩ <;> rw [e]
  exact State.storeBytes_eq data s 512

theorem deliver_next (e : Event) (s : State) :
    ∃ t, deliver e s = .next t ∧ t.font = s.font ∧ t.schedule = s.schedule := by
  cases e with
  | step => exact stepEvent_next s
  | load data => exact ⟨s.load data, rfl, by rw [load_eq], by rw [load_eq]⟩
  | reset | tick | key | display => exact ⟨_, rfl, rfl, rfl⟩

/-- Settles O10: whatever the event, it is delivered to the state with that event taken off the schedule. -/
theorem everyStepAnswersANextState : Obligations.EveryStepAnswersANextState :=
  fun s => deliver_next s.nextEvent s.takeEvent

/-! ### The halted core -/

/-- What no event but RESET touches while the core is halted (R173). -/
structure SameFrozen (s t : State) : Prop where
  fault : t.fault = s.fault
  pc : t.pc = s.pc
  v : t.v = s.v
  i : t.i = s.i
  sp : t.sp = s.sp
  stack : t.stack = s.stack
  fb : t.fb = s.fb

theorem sameFrozen_refl (s : State) : SameFrozen s s := ⟨rfl, rfl, rfl, rfl, rfl, rfl, rfl⟩

theorem sameFrozen_takeEvent (s : State) : SameFrozen s s.takeEvent := ⟨rfl, rfl, rfl, rfl, rfl, rfl, rfl⟩

theorem SameFrozen.trans {s t u : State} (h : SameFrozen s t) (h' : SameFrozen t u) : SameFrozen s u :=
  ⟨h'.fault.trans h.fault, h'.pc.trans h.pc, h'.v.trans h.v, h'.i.trans h.i, h'.sp.trans h.sp,
    h'.stack.trans h.stack, h'.fb.trans h.fb⟩

theorem sameFrozen_load (s : State) (data : List Byte) : SameFrozen s (s.load data) := by
  rw [load_eq]
  exact ⟨rfl, rfl, rfl, rfl, rfl, rfl, rfl⟩

/-- Halted, a STEP does nothing, and the host's other events but RESET write only timers, keys and memory. -/
theorem sameFrozen_deliver {s t : State} {f : FaultRecord} {e : Event} (hf : s.fault = some f) (he : e ≠ .reset)
    (h : deliver e s = .next t) : SameFrozen s t := by
  cases e with
  | reset => exact absurd rfl he
  | load data => cases h; exact sameFrozen_load s data
  | step => cases (stepEvent_of_halted hf).symm.trans h; exact sameFrozen_refl s
  | tick | key | display => cases h; exact ⟨rfl, rfl, rfl, rfl, rfl, rfl, rfl⟩

theorem nextEvent_ne_reset {s : State} (h : ∀ e ∈ s.schedule, e ≠ .reset) : s.nextEvent ≠ .reset := by
  unfold State.nextEvent
  cases hs : s.schedule with
  | nil => exact Event.noConfusion
  | cons e rest => exact h e (hs ▸ List.mem_cons_self)

theorem step_of_halted {s : State} {f : FaultRecord} (hf : s.fault = some f) (h : ∀ e ∈ s.schedule, e ≠ .reset) :
    ∃ t, step s = .next t ∧ SameFrozen s t ∧ ∀ e ∈ t.schedule, e ≠ .reset := by
  obtain ⟨t, ht, -, hsched⟩ := everyStepAnswersANextState s
  have htake : SameFrozen s.takeEvent t := sameFrozen_deliver hf (nextEvent_ne_reset h) ht
  exact ⟨t, ht, (sameFrozen_takeEvent s).trans htake, fun e he => h e (List.mem_of_mem_tail (hsched ▸ he))⟩

/-- Any number of steps of a halted core keep what one step keeps. -/
theorem run_of_halted (k : Nat) : ∀ {s : State} {f : FaultRecord}, s.fault = some f →
    (∀ e ∈ s.schedule, e ≠ .reset) → ∃ t : State, Sys2Proof.core.run k s = .next t ∧ SameFrozen s t := by
  induction k with
  | zero => exact fun {s} _ _ _ => ⟨s, rfl, sameFrozen_refl s⟩
  | succ k ih =>
    intro s f hf h
    obtain ⟨t, ht, hst, hsched⟩ := step_of_halted hf h
    obtain ⟨u, hu, htu⟩ := ih (hst.fault.trans hf) hsched
    exact ⟨u, (run_succ ht k).trans hu, hst.trans htu⟩

/-- Settles O54, by induction on the number of steps, with the schedule free of RESET carried along. -/
theorem haltedUntilReset : Obligations.HaltedUntilReset := by
  intro k s f hf h
  obtain ⟨t, ht, hst⟩ := run_of_halted k hf h
  exact ⟨t, ht, hst.fault.trans hf, hst.pc, hst.v, hst.i, hst.sp, hst.stack, hst.fb⟩

/-! ### The faults of a STEP -/

/-- Settles O12: an instruction whose conditions hold has its effect, which leaves the latch; else it faults. -/
theorem instructionsFaultExactlyAsTabled : Obligations.InstructionsFaultExactlyAsTabled := fun i s hrun =>
  ⟨fun hr => ⟨effect i s, exec_of_respects i s hr, (effect_fault i s).trans hrun⟩, exec_of_not_respects i s⟩

/-- The fault a STEP of a running machine raises, by the phase that raises it (R91, R92, R93), and the word it
records (R171). -/
inductive StepFault (s : State) : Fault → Word → Prop
  | fetch (hpc : 4094 < s.pc.toNat) : StepFault s (.memoryBounds (max s.pc.toNat 4096)) 0
  | decode (hpc : s.pc.toNat ≤ 4094) (hd : decodeWord s.fetchWord = none) :
      StepFault s (.unsupportedInstruction s.fetchWord) s.fetchWord
  | execute {i : Instr} {c : Fault} (hpc : s.pc.toNat ≤ 4094) (hd : decodeWord s.fetchWord = some i)
      (hr : s.respects i = false) (hc : mayRaise i s c) : StepFault s c s.fetchWord

/-- A fault's word is the fetched word, 0 if the fetch itself faulted (R171). -/
theorem StepFault.word_eq {s : State} {c : Fault} {w : Word} (h : StepFault s c w) :
    w = if s.pc.toNat ≤ 4094 then s.fetchWord else 0 := by
  cases h with
  | fetch hpc => exact (if_neg (Nat.not_le_of_lt hpc)).symm
  | decode hpc => exact (if_pos hpc).symm
  | execute hpc => exact (if_pos hpc).symm

theorem respects_takeEvent (i : Instr) (s : State) : s.takeEvent.respects i = s.respects i := by
  cases i <;> rfl

theorem mayRaise_takeEvent (i : Instr) (s : State) (c : Fault) : mayRaise i s.takeEvent c = mayRaise i s c := by
  cases i <;> rfl

/-- The schedule has no part in which fault a STEP raises. -/
theorem StepFault.of_takeEvent {s : State} {c : Fault} {w : Word} (h : StepFault s.takeEvent c w) :
    StepFault s c w := by
  cases h with
  | fetch hpc => exact .fetch hpc
  | decode hpc hd => exact .decode hpc hd
  | execute hpc hd hr hc => exact .execute hpc hd (respects_takeEvent _ s ▸ hr) (mayRaise_takeEvent _ s c ▸ hc)

/-- The word an instruction records is the fetched one: it is the encoding of what it decodes to. -/
theorem exec_of_decoded_not_respects {i : Instr} {s : State} (hd : decodeWord s.fetchWord = some i)
    (hr : s.respects i = false) : ∃ c, mayRaise i s c ∧ exec i s = .next (s.takeFault c s.fetchWord) := by
  obtain ⟨-, hw⟩ := isEncodingOf_of_decodeWord hd
  exact hw ▸ exec_of_not_respects i s hr

theorem stepEvent_of_stepFault {s : State} {c : Fault} {w : Word} (hrun : s.running) (h : StepFault s c w) :
    stepEvent s = .next (s.takeFault c w) := by
  cases h with
  | fetch hpc => exact stepEvent_of_pc_gt hrun hpc
  | decode hpc hd => exact stepEvent_of_unsupported hrun hpc hd
  | execute hpc hd hr hc =>
    obtain ⟨d, hd', he⟩ := exec_of_decoded_not_respects hd hr
    obtain rfl := mayRaise_unique hc hd'
    exact (stepEvent_of_decoded hrun hpc hd).trans he

/-- A STEP that leaves a fault latched raised it: an instruction's effect latches none. -/
theorem exists_stepFault {s t : State} {f : FaultRecord} (hrun : s.running) (h : stepEvent s = .next t)
    (ht : t.fault = some f) : ∃ c w, StepFault s c w := by
  rcases stepEvent_cases s with ⟨g, hg, -⟩ | ⟨-, hpc, -⟩ | ⟨-, hpc, hd, -⟩ | ⟨i, -, hpc, hd, hs⟩
  · exact absurd (hg.symm.trans hrun) (Option.some_ne_none g)
  · exact ⟨_, _, .fetch hpc⟩
  · exact ⟨_, _, .decode hpc hd⟩
  · rcases hr : s.respects i
    · obtain ⟨c, hc, -⟩ := exec_of_not_respects i s hr
      exact ⟨c, _, .execute hpc hd hr hc⟩
    · obtain rfl : effect i s = t := Host.Outcome.next.inj ((exec_of_respects i s hr).symm.trans (hs.symm.trans h))
      exact absurd (ht.symm.trans ((effect_fault i s).trans hrun)) (Option.some_ne_none f)

/-- Settles O11: the fault raised with the event taken off the schedule is the one the host is answered. -/
theorem faultingStepChangesOnlyTheLatch : Obligations.FaultingStepChangesOnlyTheLatch := by
  intro s t f hstep hrun h ht
  have hs : stepEvent s.takeEvent = .next t := (step_of_nextEvent hstep).symm.trans h
  obtain ⟨c, w, htake⟩ := exists_stepFault (s := s.takeEvent) hrun hs ht
  obtain rfl : s.takeEvent.takeFault c w = t :=
    Host.Outcome.next.inj ((stepEvent_of_stepFault (s := s.takeEvent) hrun htake).symm.trans hs)
  obtain rfl := Option.some.inj ht
  have hfault : StepFault s c w := htake.of_takeEvent
  exact ⟨rfl, rfl, hfault.word_eq, reply_step (stepEvent_of_stepFault hrun hfault)⟩

/-! ### The timers -/

theorem reply_tick_of_st_eq_one {s : State} (h : s.st.toNat = 1) : reply .tick s = .beep :=
  if_pos (s.beeps_iff.2 h)

theorem reply_tick_of_st_ne_one {s : State} (h : s.st.toNat ≠ 1) : reply .tick s = .nothing :=
  if_neg (mt s.beeps_iff.1 h)

/-- Settles O49: both timers are counted down, and ST is what the answer rests on. -/
theorem tickCountsDownAndBeeps : Obligations.TickCountsDownAndBeeps := fun s =>
  ⟨s.tick, rfl, rfl, countDown_toNat s.dt, countDown_toNat s.st, reply_tick_of_st_eq_one, reply_tick_of_st_ne_one⟩

theorem reply_tick_eq_beep_iff (s : State) : reply .tick s = .beep ↔ s.st.toNat = 1 := by
  by_cases h : s.st.toNat = 1
  · exact iff_of_true (reply_tick_of_st_eq_one h) h
  · rw [reply_tick_of_st_ne_one h]
    exact iff_of_false Reply.noConfusion h

theorem toNat_st_iterate_tick (s : State) (k : Nat) : (State.tick^[k] s).st.toNat = s.st.toNat - k := by
  induction k with
  | zero => rfl
  | succ k ih =>
    rw [Function.iterate_succ_apply', State.tick_st, countDown_toNat, ih]
    omega

/-- Settles O50: after k TICKs ST is n - k, and the next TICK beeps iff that is 1. -/
theorem oneBeepAtTheNthTick : Obligations.OneBeepAtTheNthTick := by
  intro s k
  rw [reply_tick_eq_beep_iff, toNat_st_iterate_tick]
  omega

/-! ### KEY and DISPLAY -/

theorem keys_setKey_same (s : State) (k : Reg) (b : Bool) : (s.setKey k b).keys[k] = b :=
  Vector.getElem_set_self k.isLt

theorem keys_setKey_of_ne {j k : Reg} (h : j ≠ k) (s : State) (b : Bool) : (s.setKey k b).keys[j] = s.keys[j] :=
  Vector.getElem_set_ne k.isLt j.isLt fun e => h (Fin.ext e.symm)

/-- Settles O53: KEY writes one entry of the keypad, DISPLAY reads the framebuffer. -/
theorem keyAndDisplayEvents : Obligations.KeyAndDisplayEvents :=
  ⟨fun s k b => ⟨s.setKey k b, rfl, rfl, keys_setKey_same s k b, fun _ h => keys_setKey_of_ne h s b, rfl⟩,
    fun _ => ⟨rfl, rfl⟩⟩

end Sys2Proof.Proofs
end

section
/-! SUPPORT. Statements about the LOAD event (spec/70_reset_and_hazards.md): what it does and answers on either side of
the largest image that fits. -/

namespace Sys2Proof.Proofs

open Sys2Proof Sys2Proof.Machine Sys2Proof.Claims

/-! ### LOAD -/

theorem load_of_length_le {data : List Byte} (h : data.length ≤ 3584) (s : State) :
    s.load data = s.storeBytes 512 data :=
  (s.load_cases data).elim And.right fun ⟨hgt, _⟩ => absurd h (Nat.not_le_of_lt hgt)

theorem load_of_lt_length {data : List Byte} (h : 3584 < data.length) (s : State) : s.load data = s :=
  (s.load_cases data).elim (fun ⟨hle, _⟩ => absurd hle (Nat.not_le_of_lt h)) And.right

theorem reply_load_of_length_le {data : List Byte} (h : data.length ≤ 3584) (s : State) :
    reply (.load data) s = .ok :=
  if_pos ((imageFits_iff data).2 h)

theorem reply_load_of_lt_length {data : List Byte} (h : 3584 < data.length) (s : State) :
    reply (.load data) s = .loadOverflow :=
  if_neg (mt (imageFits_iff data).1 (Nat.not_le_of_lt h))

/-- Settles O52: an image that fits is one store of its bytes, which gives its contents and its frame; a longer one
is rejected. -/
theorem loadCopiesTheImageOrRejectsIt : Obligations.LoadCopiesTheImageOrRejectsIt := by
  intro s data
  constructor
  · intro hfits
    exact ⟨s.storeBytes 512 data, congrArg Host.Outcome.next (load_of_length_le hfits s), State.storeBytes_eq data s 512,
      fun j => State.byteAt_storeBytes_inside j.isLt, fun _ ha => State.byteAt_storeBytes_outside ha,
      reply_load_of_length_le hfits s⟩
  · intro hlong
    exact ⟨congrArg Host.Outcome.next (load_of_lt_length hlong s), reply_load_of_lt_length hlong s⟩

end Sys2Proof.Proofs
end
